-- ==== Sys2Proof/Word.lean ====
section
/-! DEFINITION. The words the block handles (spec/00_scope.md R11): a value of width N is an unsigned number of N bits. -/

namespace Sys2Proof

/-- One byte: a unit register, a result RET, a byte on the bus, a command byte. -/
abbrev Byte := BitVec 8

/-- One operation word of the operation port, an indivisible unit of 16 bits (R10, R67). -/
abbrev OpWord := BitVec 16

/-- A 7-bit I2C device address (R61). -/
abbrev DevAddr := BitVec 7

/-- The 5-bit status code of the I2C status register (R37). -/
abbrev StatusCode := BitVec 5

end Sys2Proof
end

