-- ==== Sys2Proof/Config.lean ====
section
/-! DEFINITION. What the spec fixes as a constant (00_scope.md R5), the OPEN parameters (R6, R7, 10_state.md R38) and the
free values. A parameter that a step rule reads and that has a default is a field of `Params`, which State holds and no
step changes; one without a default is an opaque constant, of which nothing can be proved. -/

namespace Sys2Proof

/-- The answer of a receiver after a byte (R14, R45). -/
inductive Ack where
  | ack
  | nack
  deriving DecidableEq, Repr, Inhabited

/-- What the Bus does when the engine asks it (41_i2c.md R144): it withholds, or it answers. An answer lets a start or a
stop through, answers a transmitted byte with the acknowledge bit `a`, and supplies the byte `d` to a receive; the engine
step uses the part it needs. -/
inductive BusAnswer where
  | withhold
  | answer (a : Ack) (d : Byte)
  deriving DecidableEq, Repr, Inhabited

/-- Whose turn it is to step (00_scope.md R8). The engine's turn carries what the Bus answers it. -/
inductive Turn where
  | host
  | dispatcher
  | handler
  | tickTimer
  | pwmTimer
  | engine (answer : BusAnswer)
  deriving DecidableEq, Repr, Inhabited

/-- The status code table `ST` (R38): eleven 8-bit values. -/
structure StatusTable where
  start : Byte
  repStart : Byte
  slawAck : Byte
  slawNack : Byte
  dataAck : Byte
  dataNack : Byte
  slarAck : Byte
  slarNack : Byte
  rxAck : Byte
  rxNack : Byte
  idle : Byte
  deriving DecidableEq, Repr

/-- The eleven values of a table, in the order of R38. -/
def StatusTable.values (t : StatusTable) : List Byte :=
  [t.start, t.repStart, t.slawAck, t.slawNack, t.dataAck, t.dataNack, t.slarAck, t.slarNack, t.rxAck, t.rxNack, t.idle]

/-- The default table of R38, `[from general knowledge, not in source]`; PRESUMED, log 2. -/
def StatusTable.default : StatusTable where
  start := 0x08
  repStart := 0x10
  slawAck := 0x18
  slawNack := 0x20
  dataAck := 0x28
  dataNack := 0x30
  slarAck := 0x40
  slarNack := 0x48
  rxAck := 0x50
  rxNack := 0x58
  idle := 0xF8

/-- The OPEN parameters that a step rule reads (92_eei_decisions.md, list of OPEN parameters): `PWM_TOP` and `ST`. -/
structure Params where
  pwmTop : Byte
  st : StatusTable
  deriving DecidableEq, Repr

/-- The defaults the spec gives for tests: `PWM_TOP` 255 (R6) and the table of R38. No default is normative; log 2. -/
def Params.default : Params where
  pwmTop := 255
  st := StatusTable.default

/-- The OPEN parameters of the attached sensor (R7), read by the pseudo-instructions of 42_i2c_transactions.md only. -/
structure SensorParams where
  devAddr : DevAddr
  idReg : Byte
  idExpected : Byte
  accelCtrlReg : Byte
  gyroCtrlReg : Byte
  accelOutBase : Byte
  deriving DecidableEq, Repr

/-- `TICK_DIV`: compare events per sample-ready flag (R5). -/
def Config.tickDiv : Nat := 100

/-- `STATUS_MASK`: the top five bits of the status register (R5). -/
def Config.statusMask : Byte := 0xF8

/-- `N_ACCEL_BYTES`: bytes of an acceleration burst read (R5). -/
def Config.nAccelBytes : Nat := 6

/-- The free choice of the next turn when State's script is empty: any agent, any answer of the Bus (R8, R144); log 4. -/
opaque Config.turn : Nat → Turn

/-- `F_CPU` less one, so that `F_CPU` is a positive natural (R7); a free value, log 3. -/
opaque Config.fCpuPred : Nat

/-- `F_CPU`, the core clock rate in Hz (R7). -/
def Config.fCpu : Nat := Config.fCpuPred + 1

/-- `F_SCL` less one; a free value, log 3. -/
opaque Config.fSclPred : Nat

/-- `F_SCL`, the target bus frequency in Hz (R7). -/
def Config.fScl : Nat := Config.fSclPred + 1

/-- `I2C_DIV(F_CPU, F_SCL)`, the OPEN function whose value I2C.INIT programs (R7, 41_i2c.md R122); a free value, log 3. -/
opaque Config.i2cDiv : Nat → Nat → Byte

/-- `PWM_PRESCALE` less one (R7); no rule of the step semantics reads it, the model having no time (R280); log 16. -/
opaque Config.pwmPrescalePred : Nat

/-- `TICK_PRESCALE` less one (R7); read by no rule (R280), log 16. -/
opaque Config.tickPrescalePred : Nat

/-- `TICK_COMPARE` less one (R7); read by no rule (R280), log 16. -/
opaque Config.tickComparePred : Nat

end Sys2Proof
end

