-- ==== Sys2Proof/Syntax.lean ====
section
/-! DEFINITION. The operations of the block: one constructor per row of spec/opcode_table.json (30_encoding.md R84, R86),
and the results of the two total decoders (R90). -/

namespace Sys2Proof

/-- The Duty Level, a closed enumeration: an invalid level cannot be written (R14, R94). -/
inductive DutyLevel where
  | off
  | low
  | medium
  | high
  deriving DecidableEq, Repr

/-- The operations. The first sixteen are OP16 words of the operation port (R84), the last four C8 command bytes (R86). -/
inductive Instr where
  | pwmConfigure
  | pwmSetduty (l : DutyLevel)
  | i2cInit
  | i2cStart
  | i2cStop
  | i2cWrite (b : Byte)
  | i2cReadack
  | i2cReadnack
  | i2cGetstatus
  | tickInit
  | tickRdflag
  | tickClrflag
  | tickRdcnt
  | tickTake
  | irqEnable
  | irqDisable
  | cmdLow
  | cmdMed
  | cmdHigh
  | cmdOff
  deriving DecidableEq, Repr

/-- An encoded operation, on the stream it travels on (R80): a word of the operation port or a byte of the command
stream. The two are separate ports and are never confused. -/
inductive Encoding where
  | op16 (w : OpWord)
  | c8 (b : Byte)
  deriving DecidableEq, Repr

/-- What the OP16 decoder makes of a word: one of the sixteen operations, or `Reserved` (R90). -/
inductive Decoded16 where
  | op (i : Instr)
  | reserved
  deriving DecidableEq, Repr

/-- What the C8 decoder makes of a byte: one of the four commands, or `Unrecognised(b)` (R90). -/
inductive Decoded8 where
  | command (i : Instr)
  | unrecognised (b : Byte)
  deriving DecidableEq, Repr

end Sys2Proof
end

