-- ==== Sys2Proof/WellFormed.lean ====
section
/-! DEFINITION. The checks on raw data: an operation word's fields (30_encoding.md R82, R83, R87) and the requirements on
the OPEN parameters (10_state.md R38, 92_eei_decisions.md D4). An `Instr` needs none beyond its type: its operands are a
closed enumeration (R94) and a byte of which all 256 values are legal (R83). -/

namespace Sys2Proof

/-- The fields of an operation word (R82). -/
structure OpFields where
  unit : BitVec 4
  fn : BitVec 4
  arg : Byte
  deriving DecidableEq, Repr

/-- `unit` is bits 15:12, `fn` bits 11:8, `arg` bits 7:0 (R82). -/
def OpFields.ofWord (w : OpWord) : OpFields where
  unit := w.extractLsb' 12 4
  fn := w.extractLsb' 8 4
  arg := w.extractLsb' 0 8

/-- How many functions the unit defines: PWM 2, I2C 7, TICK 5, IRQ 2, any other unit none (R87). -/
def OpFields.fnCount (f : OpFields) : Nat :=
  if f.unit = 1 then 2 else if f.unit = 2 then 7 else if f.unit = 3 then 5 else if f.unit = 4 then 2 else 0

/-- The bits of `arg` that must be zero: `arg[7:2]` for PWM.SETDUTY, none for I2C.WRITE, all for the rest (R83, R87). -/
def OpFields.zeroMask (f : OpFields) : Byte :=
  if f.unit = 1 ∧ f.fn = 1 then 0xFC else if f.unit = 2 ∧ f.fn = 3 then 0x00 else 0xFF

/-- The word is assigned: its unit defines its function, and its must-be-zero bits are zero (R87). -/
def OpFields.wellFormed (f : OpFields) : Bool :=
  decide (f.fn.toNat < f.fnCount) && decide (f.arg &&& f.zeroMask = 0)

/-- An operation word that is not reserved, read from R87's own list of the reserved space. -/
def OpWord.wellFormed (w : OpWord) : Bool := (OpFields.ofWord w).wellFormed

/-- Every operation is well formed by construction (R94, R83): PWM.SETDUTY's level and I2C.WRITE's byte are the only
operands. -/
def Instr.wellFormed : Instr → Bool
  | .pwmConfigure => true
  | .pwmSetduty _ => true
  | .i2cInit => true
  | .i2cStart => true
  | .i2cStop => true
  | .i2cWrite _ => true
  | .i2cReadack => true
  | .i2cReadnack => true
  | .i2cGetstatus => true
  | .tickInit => true
  | .tickRdflag => true
  | .tickClrflag => true
  | .tickRdcnt => true
  | .tickTake => true
  | .irqEnable => true
  | .irqDisable => true
  | .cmdLow => true
  | .cmdMed => true
  | .cmdHigh => true
  | .cmdOff => true

/-- R38: each value of the table has bits 2:0 zero, and the eleven values are pairwise distinct. -/
def StatusTable.wellFormed (t : StatusTable) : Bool :=
  t.values.all (fun v => decide (v &&& 0x07 = 0)) && decide t.values.Nodup

/-- R6, D4: `PWM_TOP` is at least 1 (at most 255 by its width); R38 on the table. -/
def Params.wellFormed (p : Params) : Bool :=
  decide (p.pwmTop ≠ 0) && p.st.wellFormed

end Sys2Proof
end

