-- ==== Sys2Proof/Decode.lean ====
section
/-! DEFINITION. The two total decoders (30_encoding.md R80 to R90), the encoder, and the host's view of the opcode table. -/

namespace Sys2Proof

/-- The level of a code of R94. -/
def levelOfCode (c : BitVec 2) : DutyLevel :=
  if c = 0b00 then .off else if c = 0b01 then .low else if c = 0b10 then .medium else .high

/-- The code of a level (R94). -/
def codeOfLevel : DutyLevel → BitVec 2
  | .off => 0b00
  | .low => 0b01
  | .medium => 0b10
  | .high => 0b11

/-- An operation without operand: `arg` must be zero, else the word is reserved (R83, R87). -/
def noOperand (arg : Byte) (i : Instr) : Decoded16 := if arg = 0 then .op i else .reserved

/-- Unit 1, the PWM duty controller (R84). -/
def decodePwm (fn : BitVec 4) (arg : Byte) : Decoded16 :=
  if fn = 0 then noOperand arg .pwmConfigure
  else if fn = 1 then
    if arg.extractLsb' 2 6 = 0 then .op (.pwmSetduty (levelOfCode (arg.extractLsb' 0 2))) else .reserved
  else .reserved

/-- Unit 2, the I2C master sequencer (R84). -/
def decodeI2c (fn : BitVec 4) (arg : Byte) : Decoded16 :=
  if fn = 0 then noOperand arg .i2cInit
  else if fn = 1 then noOperand arg .i2cStart
  else if fn = 2 then noOperand arg .i2cStop
  else if fn = 3 then .op (.i2cWrite arg)
  else if fn = 4 then noOperand arg .i2cReadack
  else if fn = 5 then noOperand arg .i2cReadnack
  else if fn = 6 then noOperand arg .i2cGetstatus
  else .reserved

/-- Unit 3, the periodic tick source (R84). -/
def decodeTick (fn : BitVec 4) (arg : Byte) : Decoded16 :=
  if fn = 0 then noOperand arg .tickInit
  else if fn = 1 then noOperand arg .tickRdflag
  else if fn = 2 then noOperand arg .tickClrflag
  else if fn = 3 then noOperand arg .tickRdcnt
  else if fn = 4 then noOperand arg .tickTake
  else .reserved

/-- Unit 4, the global interrupt mask (R84). -/
def decodeIrq (fn : BitVec 4) (arg : Byte) : Decoded16 :=
  if fn = 0 then noOperand arg .irqEnable
  else if fn = 1 then noOperand arg .irqDisable
  else .reserved

/-- The OP16 decoder: every word is one of the sixteen operations or `Reserved` (R84, R87, R90). -/
def decodeOp16 (w : OpWord) : Decoded16 :=
  let f := OpFields.ofWord w
  if f.unit = 1 then decodePwm f.fn f.arg
  else if f.unit = 2 then decodeI2c f.fn f.arg
  else if f.unit = 3 then decodeTick f.fn f.arg
  else if f.unit = 4 then decodeIrq f.fn f.arg
  else .reserved

/-- The C8 decoder: the whole byte is the opcode, `'x'` and `'X'` are one command, and every other byte is
unrecognised (R85, R86, R88). -/
def decodeC8 (b : Byte) : Decoded8 :=
  if b = 0x77 then .command .cmdLow
  else if b = 0x73 then .command .cmdMed
  else if b = 0x57 then .command .cmdHigh
  else if b &&& 0xDF = 0x58 then .command .cmdOff
  else .unrecognised b

/-- The operation an encoding stands for, if it is assigned one. -/
def decode : Encoding → Option Instr
  | .op16 w => match decodeOp16 w with
    | .op i => some i
    | .reserved => none
  | .c8 b => match decodeC8 b with
    | .command i => some i
    | .unrecognised _ => none

/-- An operation word from its fields (R82). -/
def opWord (unit fn : BitVec 4) (arg : Byte) : OpWord := unit ++ fn ++ arg

/-- The encoding of an operation (R84, R86, R94). CMD.OFF has two bytes; the encoder writes `'x'`, 0x78
(DESIGN CHOICE, log 14). -/
def encode : Instr → Encoding
  | .pwmConfigure => .op16 (opWord 1 0 0)
  | .pwmSetduty l => .op16 (opWord 1 1 ((codeOfLevel l).setWidth 8))
  | .i2cInit => .op16 (opWord 2 0 0)
  | .i2cStart => .op16 (opWord 2 1 0)
  | .i2cStop => .op16 (opWord 2 2 0)
  | .i2cWrite b => .op16 (opWord 2 3 b)
  | .i2cReadack => .op16 (opWord 2 4 0)
  | .i2cReadnack => .op16 (opWord 2 5 0)
  | .i2cGetstatus => .op16 (opWord 2 6 0)
  | .tickInit => .op16 (opWord 3 0 0)
  | .tickRdflag => .op16 (opWord 3 1 0)
  | .tickClrflag => .op16 (opWord 3 2 0)
  | .tickRdcnt => .op16 (opWord 3 3 0)
  | .tickTake => .op16 (opWord 3 4 0)
  | .irqEnable => .op16 (opWord 4 0 0)
  | .irqDisable => .op16 (opWord 4 1 0)
  | .cmdLow => .c8 0x77
  | .cmdMed => .c8 0x73
  | .cmdHigh => .c8 0x57
  | .cmdOff => .c8 0x78

/-- One row of the opcode maps R84 and R86: a word selects the row when `w & mask = match`. -/
def opTable : List (OpWord × OpWord) :=
  [(0x1000, 0xFFFF), (0x1100, 0xFFFC), (0x2000, 0xFFFF), (0x2100, 0xFFFF), (0x2200, 0xFFFF), (0x2300, 0xFF00),
   (0x2400, 0xFFFF), (0x2500, 0xFFFF), (0x2600, 0xFFFF), (0x3000, 0xFFFF), (0x3100, 0xFFFF), (0x3200, 0xFFFF),
   (0x3300, 0xFFFF), (0x3400, 0xFFFF), (0x4000, 0xFFFF), (0x4100, 0xFFFF)]

/-- The rows of R86. -/
def cmdTable : List (Byte × Byte) := [(0x77, 0xFF), (0x73, 0xFF), (0x57, 0xFF), (0x58, 0xDF)]

/-- The word selects the row `(match, mask)` (R84). -/
def selectsOp (w : OpWord) (row : OpWord × OpWord) : Bool := decide (w &&& row.2 = row.1)

/-- The byte selects the row `(match, mask)` (R86). -/
def selectsCmd (b : Byte) (row : Byte × Byte) : Bool := decide (b &&& row.2 = row.1)

/-- The instruction the decoder reads from a row of spec/opcode_table.json: 16 bits are an OP16 word, one indivisible
unit with no byte order (R67), 8 bits a C8 byte (R80); any other length, or a number that does not fit, is no row. -/
def decodeTableWord (nbits w : Nat) : Option Instr :=
  if nbits = 16 then (if w < 2 ^ 16 then decode (.op16 (BitVec.ofNat 16 w)) else none)
  else if nbits = 8 then (if w < 2 ^ 8 then decode (.c8 (BitVec.ofNat 8 w)) else none)
  else none

end Sys2Proof
end

