-- ==== Sys2Proof/Machine/State.lean ====
section
/-! DEFINITION. The architectural state of the block (spec/10_state.md), the reference slave (20_memory.md R65), the
model's own fields, the reasons a step can refuse, and the state after reset (70_reset_and_hazards.md R260). -/

namespace Sys2Proof.Machine

/-- What the Host is waiting for: the kind of blocking operation it has issued (R24). -/
inductive WaitKind where
  | start
  | tx
  | rxAck
  | rxNack
  deriving DecidableEq, Repr

/-- `pwm.mode` (R26). -/
inductive PwmMode where
  | disconnected
  | fastNonInv
  deriving DecidableEq, Repr

/-- The value of the output pin; `z` is "not driven" (R33). -/
inductive PinLevel where
  | z
  | low
  | high
  deriving DecidableEq, Repr

/-- `i2c.cmd`: what the Host has triggered and the engine has not yet performed (R41). -/
inductive EngineCmd where
  | none
  | start
  | tx
  | rx
  deriving DecidableEq, Repr

/-- `i2c.txkind`: what the byte of a pending `tx` is (R41). -/
inductive TxKind where
  | addrW
  | addrR
  | data
  deriving DecidableEq, Repr

/-- `i2c.phase`: the position inside an I2C transaction, as the Host has issued it (R43). -/
inductive Phase where
  | idle
  | started
  | mt
  | repStarted
  | mr
  | mrLast
  deriving DecidableEq, Repr

/-- The bus events `S`, `Sr`, `W(b, a)`, `R(b, a)`, `P` of the ghost log `bus.trace` (R45). -/
inductive BusEvent where
  | s
  | sr
  | w (b : Byte) (a : Ack)
  | r (b : Byte) (a : Ack)
  | p
  deriving DecidableEq, Repr

/-- The dispatcher's notifications of the ghost log `cmd.out` (R51). -/
inductive Notice where
  | ack (l : DutyLevel)
  | unrec (b : Byte)
  deriving DecidableEq, Repr

/-- The PWM duty controller (R25 to R32). -/
structure Pwm where
  /-- `pwm.cfg` (R25). -/
  cfg : Bool
  /-- `pwm.mode` (R26). -/
  mode : PwmMode
  /-- `pwm.oe` (R27). -/
  oe : Bool
  /-- `pwm.top` (R28). -/
  top : Byte
  /-- `pwm.cmp_buf` (R29). -/
  cmpBuf : Byte
  /-- `pwm.cmp_act` (R30). -/
  cmpAct : Byte
  /-- `pwm.cnt` (R31). -/
  cnt : Byte
  /-- `pwm.level` (R32). -/
  level : DutyLevel
  deriving DecidableEq, Repr

/-- The I2C master sequencer (R34 to R44). -/
structure I2c where
  /-- `i2c.en` (R34). -/
  en : Bool
  /-- `i2c.div` (R35). -/
  div : Byte
  /-- `i2c.dr` (R36). -/
  dr : Byte
  /-- `i2c.sr.code`, bits 7:3 of the status register (R37). -/
  srCode : StatusCode
  /-- `i2c.sr.low`, bits 2:0 of the status register: no rule reads or writes them (R37); log 10. -/
  srLow : BitVec 3
  /-- `i2c.done` (R39). -/
  done : Bool
  /-- `i2c.ack_en` (R40). -/
  ackEn : Bool
  /-- `i2c.cmd` (R41). -/
  cmd : EngineCmd
  /-- `i2c.txkind` (R41). -/
  txkind : TxKind
  /-- `i2c.stop_pend` (R42). -/
  stopPend : Bool
  /-- `i2c.phase` (R43). -/
  phase : Phase
  /-- `i2c.dev` (R44); `none` is the spec's own value, no transaction having an address yet. -/
  dev : Option DevAddr
  deriving DecidableEq, Repr

/-- The periodic tick source (R47 to R50). -/
structure Tick where
  /-- `tick.run` (R47). -/
  run : Bool
  /-- `tick.pend` (R48). -/
  pend : Bool
  /-- `tick.count` (R49). -/
  count : Byte
  /-- `tick.flag` (R50). -/
  flag : Bool
  deriving DecidableEq, Repr

/-- A register file of an I2C device: (address, byte) pairs, addresses strictly rising, no entry equal to what an
unlisted address reads as (`Memory.wf`, Ops.lean). -/
abbrev Memory := List Host.Cell

/-- The reference slave `RefSlave(A, regs)`, one deterministic Bus environment (20_memory.md R65). -/
structure RefSlave where
  /-- `A`, the address it answers. -/
  addr : DevAddr
  /-- `regs[0..255]`. -/
  regs : Memory
  /-- `ptr`. -/
  ptr : Byte
  /-- `sel`. -/
  sel : Bool
  /-- `rw`: true is 1, a read. -/
  rw : Bool
  /-- `first`. -/
  first : Bool
  /-- `await_addr`. -/
  awaitAddr : Bool
  deriving DecidableEq, Repr

/-- The whole machine. The first nine fields are the spec's; the rest are the model's own (INVENTORY.md, State). -/
structure State where
  /-- `sys.gie` (R23). -/
  gie : Bool
  /-- `host.busy` (R24): `none`, or waiting for the operation-complete bit. -/
  busy : Option WaitKind
  /-- The PWM duty controller (R25 to R32). -/
  pwm : Pwm
  /-- The I2C master sequencer (R34 to R44). -/
  i2c : I2c
  /-- `bus.trace`, ghost log (R45). -/
  trace : List BusEvent
  /-- The periodic tick source (R47 to R50). -/
  tick : Tick
  /-- `cmd.out`, ghost log (R51). -/
  cmdOut : List Notice
  /-- The Bus environment when it is the reference slave (R65); `none`: the Bus answers as the turns say (R144). -/
  slave : Option RefSlave
  /-- The OPEN parameters of this block (R7); no step changes them. -/
  params : Params
  /-- The operation words the Host has still to present (R81). -/
  words : List OpWord
  /-- The command bytes received and not yet taken (R200). -/
  bytes : List Byte
  /-- The Host has performed HALT: it issues nothing more and takes no byte (60_exceptions.md R246); the block itself has no
  halted state; log 25. -/
  halted : Bool
  /-- The completions answered so far, each with its `RET` or none (R10, R20). -/
  completions : List (Option Byte)
  /-- The turns still to be taken (R8). -/
  turns : List Turn
  /-- How many turns have been drawn from `Config.turn`. -/
  drawn : Nat
  deriving DecidableEq, Repr

/-- Why the machine could stop with a fault: never. The block raises no synchronous exception (60_exceptions.md R230) and
"has no *fault* outcome of its own" (00_scope.md R13); log 15. Safe: there is nothing to reach. -/
inductive Fault where
  deriving DecidableEq, Repr

/-- Why a step has no meaning: the closed list of 60_exceptions.md R231. Each is safe: the model stops where the hardware
does something that the spec does not say ("Every refusal errs toward unprovable"). -/
inductive Refusal where
  /-- Raised by an arm of `exec` for an instruction without a meaning; no arm of this model raises it. Safe. -/
  | notModelled (mnemonic : String)
  /-- Raised by the OP16 decoder: the word selects no row (R87). Safe. -/
  | reservedOp
  /-- Raised by PWM.CONFIGURE when `pwm.cfg = 1` (R103). Safe. -/
  | pwmReconfigure
  /-- Raised by PWM.SETDUTY and the four commands when `pwm.cfg = 0` (R106). Safe. -/
  | pwmNotConfigured
  /-- Raised by I2C.INIT when `i2c.en = 1` (R122). Safe. -/
  | i2cReinit
  /-- Raised by I2C.START, STOP, WRITE, READACK and READNACK when `i2c.en = 0` (R123). Safe. -/
  | i2cNotEnabled
  /-- Raised by the same five in a phase without an entry in the table of R121. Safe. -/
  | i2cProtocol
  /-- Raised by I2C.WRITE after a repeated start for a byte that is not the read address of the same device (R130). Safe. -/
  | i2cRepStartTarget
  /-- Raised by TICK.INIT when `tick.run = 1` (R181). Safe. -/
  | tickReinit
  deriving DecidableEq, Repr

/-- The value of every 8-bit register that R260 leaves unspecified ("a model holds it as no value (or any value) and never
as zero by default"); DESIGN CHOICE, log 1. -/
def unspecifiedByte : Byte := 0x5A

/-- The PWM unit after reset (R260). -/
def Pwm.reset : Pwm where
  cfg := false
  mode := .disconnected
  oe := false
  top := unspecifiedByte
  cmpBuf := unspecifiedByte
  cmpAct := unspecifiedByte
  cnt := unspecifiedByte
  level := .high

/-- The I2C unit after reset (R260), for the status table `st`. -/
def I2c.reset (st : StatusTable) : I2c where
  en := false
  div := unspecifiedByte
  dr := unspecifiedByte
  srCode := st.idle.extractLsb' 3 5
  srLow := 0b101
  done := false
  ackEn := false
  cmd := .none
  txkind := .data
  stopPend := false
  phase := .idle
  dev := none

/-- The tick source after reset (R260). -/
def Tick.reset : Tick where
  run := false
  pend := false
  count := 0
  flag := false

/-- The block after reset, with the parameters `p` (R260). -/
def State.resetWith (p : Params) : State where
  gie := false
  busy := none
  pwm := Pwm.reset
  i2c := I2c.reset p.st
  trace := []
  tick := Tick.reset
  cmdOut := []
  slave := none
  params := p
  words := []
  bytes := []
  halted := false
  completions := []
  turns := []
  drawn := 0

/-- The machine right after reset (R260), with the default parameters of the spec (log 2). -/
def State.reset : State := State.resetWith Params.default

end Sys2Proof.Machine
end

