-- ==== Sys2Proof/Machine/Operands.lean ====
section
/-! DEFINITION. Operand forms and the values computed from them: the duty levels and the compare value (40_pwm.md R105), the
address byte (20_memory.md R61), results (30_encoding.md R83), and the axis value (42_i2c_transactions.md R169). -/

namespace Sys2Proof.Machine

/-- `PCT(l)`, percent of the top value (00_scope.md R5, 30_encoding.md R94). -/
def pct : DutyLevel → Nat
  | .off => 0
  | .low => 25
  | .medium => 50
  | .high => 80

/-- The compare value for any width of the top: the exact product, then floor division (R105). -/
def compareNat (top : Nat) (l : DutyLevel) : Nat := top * pct l / 100

/-- The compare value in the `PWM_W`-bit register; it always fits, being at most the top (R105). -/
def compareValue (top : Byte) (l : DutyLevel) : Byte := BitVec.ofNat 8 (compareNat top.toNat l)

/-- Bits 7:1 of an address byte: the device (R61). -/
def deviceOf (b : Byte) : DevAddr := b.extractLsb' 1 7

/-- Bit 0 of an address byte: 0 write, 1 read (R61). -/
def isRead (b : Byte) : Bool := b.getLsbD 0

/-- `ADDR_W(dev) = (dev << 1) | 0` (R61). -/
def addrW (dev : DevAddr) : Byte := dev ++ (0 : BitVec 1)

/-- `ADDR_R(dev) = (dev << 1) | 1` (R61). -/
def addrR (dev : DevAddr) : Byte := dev ++ (1 : BitVec 1)

/-- A one-bit result, zero-extended to the 8 bits of `RET` (R83). -/
def zext8 (b : Bool) : Byte := if b then 1 else 0

/-- `int16((high << 8) | low)`: the 16-bit pattern `high ++ low` read as two's complement (R169, R11). -/
def int16 (high low : Byte) : Int := (high ++ low).toInt

/-- `convert(raw) = raw * 0.122 / 1000` g in exact rationals (R171, informative; log 19). -/
def convert (raw : Int) : Rat := (raw : Rat) * 122 / 1000000

end Sys2Proof.Machine
end

