-- ==== Sys2Proof/Machine/Ops.lean ====
section
/-! DEFINITION. The named operations over the state: updates of a unit, the completion of an operation, the ghost logs,
the registers of an I2C device, and taking the one interrupt. -/

namespace Sys2Proof.Machine

/-- The outcome of a step (00_scope.md R13). -/
abbrev Result := Host.Outcome State Fault Refusal

/-! ### Updates, one per unit -/

def State.setGie (s : State) (b : Bool) : State := { s with gie := b }

def State.setBusy (s : State) (b : Option WaitKind) : State := { s with busy := b }

def State.setPwm (s : State) (p : Pwm) : State := { s with pwm := p }

def State.setI2c (s : State) (i : I2c) : State := { s with i2c := i }

def State.setTick (s : State) (t : Tick) : State := { s with tick := t }

def State.setSlave (s : State) (v : Option RefSlave) : State := { s with slave := v }

def State.setWords (s : State) (ws : List OpWord) : State := { s with words := ws }

def State.setBytes (s : State) (bs : List Byte) : State := { s with bytes := bs }

/-- `HALT`: the Host issues no further operation, for ever; nothing of the block changes, `sys.gie` included (R246). -/
def State.halt (s : State) : State := { s with halted := true }

def State.setTurns (s : State) (ts : List Turn) (n : Nat) : State := { s with turns := ts, drawn := n }

/-- A bus event is appended to `bus.trace` (R45). -/
def State.emit (s : State) (e : BusEvent) : State := { s with trace := s.trace ++ [e] }

/-- A notification is appended to `cmd.out` (R51). -/
def State.notify (s : State) (n : Notice) : State := { s with cmdOut := s.cmdOut ++ [n] }

/-- The port answers a completion, with a result `RET` or without (R10, R12 `ret v`). -/
def State.answer (s : State) (ret : Option Byte) : State := { s with completions := s.completions ++ [ret] }

/-- Continue with the next state of an outcome; a fault or a refusal stays. -/
def andThen (r : Result) (f : State → State) : Result :=
  match r with
  | .next s => .next (f s)
  | .fault e => .fault e
  | .refused e => .refused e

/-! ### The registers of an I2C device (20_memory.md R65, R66) -/

/-- What a register that no entry lists reads as: the fixture's blank content (DESIGN CHOICE, log 9). -/
def blankByte : Byte := 0x00

/-- `MemRead(a, 1)` against a reference slave (R66). -/
def Memory.read : Memory → Nat → Byte
  | [], _ => blankByte
  | (b, w) :: m, a => if a = b then w else Memory.read m a

/-- `MemWrite(a, 1, v)` against a reference slave (R66); the canonical form is kept. -/
def Memory.write : Memory → Nat → Byte → Memory
  | [], a, v => if v = blankByte then [] else [(a, v)]
  | (b, w) :: m, a, v =>
    if a < b then (if v = blankByte then (b, w) :: m else (a, v) :: (b, w) :: m)
    else if a = b then (if v = blankByte then m else (a, v) :: m)
    else (b, w) :: Memory.write m a v

/-- The canonical form: addresses in the device's 256 registers and strictly rising, no entry blank. -/
abbrev Memory.wf (m : Memory) : Prop :=
  (m.map Prod.fst).Pairwise (· < ·) ∧ ∀ c ∈ m, c.1 < 256 ∧ c.2 ≠ blankByte

/-! ### The interrupt (43_tick.md R188, R189; 60_exceptions.md R234 to R238) -/

/-- The tick interrupt is pending and not masked: the Handler step is enabled, and neither a Host step nor a TickTimer
step is (R188, R189, R236). -/
def handlerDue (s : State) : Bool := s.tick.pend && s.gie

/-- The count after one more tick, as the handler computes it: on reaching `TICK_DIV` the flag is set and the count
returns to 0 (R188). The 8-bit increment is exact in the counter's range 0 to 99 (R49); log 11. -/
def handlerTick (t : Tick) : Tick :=
  let c := t.count + 1
  if c = BitVec.ofNat 8 Config.tickDiv then { t with pend := false, flag := true, count := 0 }
  else { t with pend := false, count := c }

/-- TAKING THE INTERRUPT, one atomic step when it is enabled: the pending bit is cleared on entry, the handler's work is
done and the main loop resumes where it was. The block saves and restores nothing, `sys.gie` has the same value after as
before, and there is no return operation: the handler ends by itself (R188, R237, R238). -/
def takeInterrupt (s : State) : State := if handlerDue s then s.setTick (handlerTick s.tick) else s

end Sys2Proof.Machine
end

