-- ==== Sys2Proof/Machine/Pwm.lean ====
section
/-! DEFINITION. The PWM duty controller (spec/40_pwm.md): its two operations and the PwmTimer step. -/

namespace Sys2Proof.Machine

/-- The unit as PWM.CONFIGURE leaves it, with the top value `top` (R101). -/
def configuredPwm (top : Byte) : Pwm where
  cfg := true
  mode := .fastNonInv
  oe := true
  top := top
  cmpBuf := 0
  cmpAct := 0
  cnt := 0
  level := .off

/-- PWM.CONFIGURE (R101); a second one is refused (R103). -/
def execPwmConfigure (s : State) : Result :=
  if s.pwm.cfg then .refused .pwmReconfigure
  else .next ((s.setPwm (configuredPwm s.params.pwmTop)).answer none)

/-- The effect of PWM.SETDUTY, which the commands perform too: the compare buffer and the level are written, nothing of
the running waveform (R104, R107); before PWM.CONFIGURE it is refused (R106). -/
def setDuty (l : DutyLevel) (s : State) : Result :=
  if s.pwm.cfg then .next (s.setPwm { s.pwm with cmpBuf := compareValue s.pwm.top l, level := l })
  else .refused .pwmNotConfigured

/-- PWM.SETDUTY l (R104). -/
def execPwmSetduty (l : DutyLevel) (s : State) : Result := andThen (setDuty l s) (·.answer none)

/-- One timer clock: at the top the counter restarts and the compare buffer is latched, else it counts up (R108). -/
def clockPwm (p : Pwm) : Pwm :=
  if p.cnt = p.top then { p with cnt := 0, cmpAct := p.cmpBuf } else { p with cnt := p.cnt + 1 }

/-- The PwmTimer step, enabled when `pwm.cfg = 1` (R108). -/
def pwmTimerStep (s : State) : State := if s.pwm.cfg then s.setPwm (clockPwm s.pwm) else s

end Sys2Proof.Machine
end

