-- ==== Sys2Proof/Machine/Cmd.lean ====
section
/-! DEFINITION. The command dispatcher (spec/44_cmd.md): the four commands and the unrecognised byte. -/

namespace Sys2Proof.Machine

/-- Perform PWM.SETDUTY l, including its refusal, then the acknowledgement (R201 to R206). -/
def command (l : DutyLevel) (s : State) : Result := andThen (setDuty l s) (·.notify (.ack l))

/-- CMD.LOW (R201). -/
def execCmdLow (s : State) : Result := command .low s

/-- CMD.MED (R202). -/
def execCmdMed (s : State) : Result := command .medium s

/-- CMD.HIGH (R203). -/
def execCmdHigh (s : State) : Result := command .high s

/-- CMD.OFF (R204). -/
def execCmdOff (s : State) : Result := command .off s

/-- An unrecognised byte is echoed and changes nothing else; it never refuses (R205). -/
def execUnrecognised (b : Byte) (s : State) : Result := .next (s.notify (.unrec b))

end Sys2Proof.Machine
end

