-- ==== Sys2Proof/Machine/Flags.lean ====
section
/-! DEFINITION. The status flags (10_state.md R22: `tick.flag`, `i2c.done`, `tick.pend`), the status code (R37, R38) and the
output pin (R33). -/

namespace Sys2Proof.Machine

/-- Bits 7:3 of a status value (R37): `i2c.sr.code <- ST.X[7:3]`. -/
def codeOf (v : Byte) : StatusCode := v.extractLsb' 3 5

/-- The status register as one byte: the code in bits 7:3, the unspecified bits below (R37). -/
def statusRegister (i : I2c) : Byte := i.srCode ++ i.srLow

/-- The engine has performed an operation: its command is taken, the operation-complete bit is set and the status code is
written, in one step (R39, 41_i2c.md R141 to R143). -/
def engineDone (i : I2c) (st : Byte) : I2c := { i with cmd := .none, done := true, srCode := codeOf st }

/-- The status value of a transmitted byte, by its kind and the answer (R142). -/
def txStatus (st : StatusTable) : TxKind → Ack → Byte
  | .addrW, .ack => st.slawAck
  | .addrW, .nack => st.slawNack
  | .addrR, .ack => st.slarAck
  | .addrR, .nack => st.slarNack
  | .data, .ack => st.dataAck
  | .data, .nack => st.dataNack

/-- The acknowledge the block returns after a received byte (R143): `i2c.ack_en`. -/
def rxAckBit (i : I2c) : Ack := if i.ackEn then .ack else .nack

/-- The status value of a received byte (R143). -/
def rxStatus (st : StatusTable) (i : I2c) : Byte := if i.ackEn then st.rxAck else st.rxNack

/-- The sample-ready flag is cleared; nothing else of the tick source moves (R183). -/
def clearFlag (t : Tick) : Tick := { t with flag := false }

/-- `PWM_OUT`, a function of the state (R33). -/
def State.pwmOut (s : State) : PinLevel :=
  if s.pwm.oe = false then .z
  else if s.pwm.mode = .fastNonInv ∧ s.pwm.cnt < s.pwm.cmpAct then .high
  else .low

end Sys2Proof.Machine
end

