-- ==== Sys2Proof/Machine/I2c.lean ====
section
/-! DEFINITION. The operations of the I2C master sequencer (spec/41_i2c.md R120 to R137): the issue step of each, the table
of legal phases, and the complete step of the blocking ones. -/

namespace Sys2Proof.Machine

/-- The column I2C.START of the table of R121. -/
def startPhase : Phase → Option Phase
  | .idle => some .started
  | .started => none
  | .mt => some .repStarted
  | .repStarted => none
  | .mr => none
  | .mrLast => none

/-- The column I2C.STOP of the table of R121. -/
def stopPhase : Phase → Option Phase
  | .idle => none
  | .started => none
  | .mt => some .idle
  | .repStarted => none
  | .mr => none
  | .mrLast => some .idle

/-- The column I2C.READACK of the table of R121. -/
def readAckPhase : Phase → Option Phase
  | .idle => none
  | .started => none
  | .mt => none
  | .repStarted => none
  | .mr => some .mr
  | .mrLast => none

/-- The column I2C.READNACK of the table of R121. -/
def readNackPhase : Phase → Option Phase
  | .idle => none
  | .started => none
  | .mt => none
  | .repStarted => none
  | .mr => some .mrLast
  | .mrLast => none

/-- What a write leaves behind in the sequencer: the next phase, the device of the open transaction and the kind of byte
(R130). -/
structure WriteEffect where
  phase : Phase
  dev : Option DevAddr
  kind : TxKind
  deriving DecidableEq, Repr

/-- The first byte after a start is the address byte, whatever its value (R130). -/
def addressWrite (b : Byte) : WriteEffect :=
  if isRead b then ⟨.mr, some (deviceOf b), .addrR⟩ else ⟨.mt, some (deviceOf b), .addrW⟩

/-- The column I2C.WRITE of the table of R121, with the check of a repeated start's target (R130). -/
def writeEffect (phase : Phase) (dev : Option DevAddr) (b : Byte) : Except Refusal WriteEffect :=
  match phase with
  | .started => .ok (addressWrite b)
  | .repStarted => if isRead b = true ∧ dev = some (deviceOf b) then .ok ⟨.mr, dev, .addrR⟩ else .error .i2cRepStartTarget
  | .mt => .ok ⟨.mt, dev, .data⟩
  | .idle => .error .i2cProtocol
  | .mr => .error .i2cProtocol
  | .mrLast => .error .i2cProtocol

/-- The trigger write of a blocking operation: the completion bit is cleared and the engine's command set in one write
(R39, R120). -/
def trigger (i : I2c) (c : EngineCmd) : I2c := { i with done := false, cmd := c }

/-- The issue step of a blocking operation: the unit is triggered and the Host waits (R81, R120). -/
def issue (s : State) (i : I2c) (k : WaitKind) : Result := .next ((s.setI2c i).setBusy (some k))

/-- I2C.INIT (R122): once, it programs the divisor and enables the bus interface. -/
def execI2cInit (s : State) : Result :=
  if s.i2c.en then .refused .i2cReinit
  else .next ((s.setI2c { s.i2c with div := Config.i2cDiv Config.fCpu Config.fScl, en := true }).answer none)

/-- I2C.START, issue step (R124). -/
def execI2cStart (s : State) : Result :=
  if s.i2c.en = false then .refused .i2cNotEnabled
  else match startPhase s.i2c.phase with
    | none => .refused .i2cProtocol
    | some p => issue s (trigger { s.i2c with phase := p } .start) .start

/-- I2C.STOP (R127): it does not block; the engine puts the stop on the bus later. -/
def execI2cStop (s : State) : Result :=
  if s.i2c.en = false then .refused .i2cNotEnabled
  else match stopPhase s.i2c.phase with
    | none => .refused .i2cProtocol
    | some p => .next ((s.setI2c { s.i2c with done := false, stopPend := true, phase := p, dev := none }).answer none)

/-- I2C.WRITE b, issue step (R130). -/
def execI2cWrite (b : Byte) (s : State) : Result :=
  if s.i2c.en = false then .refused .i2cNotEnabled
  else match writeEffect s.i2c.phase s.i2c.dev b with
    | .error r => .refused r
    | .ok e => issue s (trigger { s.i2c with dr := b, txkind := e.kind, phase := e.phase, dev := e.dev } .tx) .tx

/-- I2C.READACK, issue step (R133). -/
def execI2cReadack (s : State) : Result :=
  if s.i2c.en = false then .refused .i2cNotEnabled
  else match readAckPhase s.i2c.phase with
    | none => .refused .i2cProtocol
    | some p => issue s (trigger { s.i2c with ackEn := true, phase := p } .rx) .rxAck

/-- I2C.READNACK, issue step (R135). -/
def execI2cReadnack (s : State) : Result :=
  if s.i2c.en = false then .refused .i2cNotEnabled
  else match readNackPhase s.i2c.phase with
    | none => .refused .i2cProtocol
    | some p => issue s (trigger { s.i2c with ackEn := false, phase := p } .rx) .rxNack

/-- I2C.GETSTATUS (R137): the status register masked to its code; legal in every phase, enabled or not. -/
def execI2cGetstatus (s : State) : Result := .next (s.answer (some (statusRegister s.i2c &&& Config.statusMask)))

/-- The result of a blocking operation at its complete step: the data register for the two reads, none for a start or a
write (R124, R130, R133, R135). -/
def completionRet (i : I2c) : WaitKind → Option Byte
  | .start => none
  | .tx => none
  | .rxAck => some i.dr
  | .rxNack => some i.dr

/-- The complete step, enabled only when `i2c.done = 1`: the Host stops polling and takes the result; while the bit is 0 the
Host is held (R81, R120, R145). -/
def completeStep (k : WaitKind) (s : State) : State :=
  if s.i2c.done then (s.setBusy none).answer (completionRet s.i2c k) else s

end Sys2Proof.Machine
end

