-- ==== Sys2Proof/Machine/Irq.lean ====
section
/-! DEFINITION. The global interrupt mask operations (spec/45_irq.md). -/

namespace Sys2Proof.Machine

/-- IRQ.ENABLE (R215). -/
def execIrqEnable (s : State) : Result := .next ((s.setGie true).answer none)

/-- IRQ.DISABLE (R216). -/
def execIrqDisable (s : State) : Result := .next ((s.setGie false).answer none)

end Sys2Proof.Machine
end

