-- ==== Sys2Proof/Machine/Tick.lean ====
section
/-! DEFINITION. The periodic tick source (spec/43_tick.md): its five operations and the TickTimer step. The Handler step is
`takeInterrupt` (Ops.lean). -/

namespace Sys2Proof.Machine

/-- TICK.INIT (R181): once, it starts the timer and touches nothing else. -/
def execTickInit (s : State) : Result :=
  if s.tick.run then .refused .tickReinit else .next ((s.setTick { s.tick with run := true }).answer none)

/-- TICK.RDFLAG (R182). -/
def execTickRdflag (s : State) : Result := .next (s.answer (some (zext8 s.tick.flag)))

/-- TICK.CLRFLAG (R183). -/
def execTickClrflag (s : State) : Result := .next ((s.setTick (clearFlag s.tick)).answer none)

/-- TICK.RDCNT (R184). -/
def execTickRdcnt (s : State) : Result := .next (s.answer (some s.tick.count))

/-- TICK.TAKE (R185): the flag is returned as it was and cleared, in one atomic step. -/
def execTickTake (s : State) : Result := .next ((s.setTick (clearFlag s.tick)).answer (some (zext8 s.tick.flag)))

/-- The TickTimer step, one compare event (R187): enabled when `tick.run = 1`, but not while an unmasked event is pending
(R189); an event that finds one pending merges with it (R191). -/
def tickTimerStep (s : State) : State :=
  if s.tick.run && !handlerDue s then s.setTick { s.tick with pend := true } else s

end Sys2Proof.Machine
end

