-- ==== Sys2Proof/Machine/Dispatch.lean ====
section
/-! DEFINITION. One arm per operation of spec/opcode_table.json. -/

namespace Sys2Proof.Machine

def exec (i : Instr) (s : State) : Host.Outcome State Fault Refusal :=
  match i with
  | .pwmConfigure => Sys2Proof.Machine.execPwmConfigure s
  | .pwmSetduty l => Sys2Proof.Machine.execPwmSetduty l s
  | .i2cInit => Sys2Proof.Machine.execI2cInit s
  | .i2cStart => Sys2Proof.Machine.execI2cStart s
  | .i2cStop => Sys2Proof.Machine.execI2cStop s
  | .i2cWrite b => Sys2Proof.Machine.execI2cWrite b s
  | .i2cReadack => Sys2Proof.Machine.execI2cReadack s
  | .i2cReadnack => Sys2Proof.Machine.execI2cReadnack s
  | .i2cGetstatus => Sys2Proof.Machine.execI2cGetstatus s
  | .tickInit => Sys2Proof.Machine.execTickInit s
  | .tickRdflag => Sys2Proof.Machine.execTickRdflag s
  | .tickClrflag => Sys2Proof.Machine.execTickClrflag s
  | .tickRdcnt => Sys2Proof.Machine.execTickRdcnt s
  | .tickTake => Sys2Proof.Machine.execTickTake s
  | .irqEnable => Sys2Proof.Machine.execIrqEnable s
  | .irqDisable => Sys2Proof.Machine.execIrqDisable s
  | .cmdLow => Sys2Proof.Machine.execCmdLow s
  | .cmdMed => Sys2Proof.Machine.execCmdMed s
  | .cmdHigh => Sys2Proof.Machine.execCmdHigh s
  | .cmdOff => Sys2Proof.Machine.execCmdOff s

end Sys2Proof.Machine
end

