-- ==== Sys2Proof/Machine/Slave.lean ====
section
/-! DEFINITION. The reference slave (spec/20_memory.md R65): its answers to the engine steps. It never stalls. -/

namespace Sys2Proof.Machine

/-- On `S` or `Sr`: deselected, and the next byte written is an address byte. -/
def slaveStart (v : RefSlave) : RefSlave := { v with sel := false, awaitAddr := true }

/-- On `P`: deselected. -/
def slaveStop (v : RefSlave) : RefSlave := { v with sel := false, awaitAddr := false }

/-- On the address byte. -/
def slaveAddress (v : RefSlave) (b : Byte) : Ack × RefSlave :=
  if deviceOf b = v.addr then (.ack, { v with awaitAddr := false, sel := true, rw := isRead b, first := true })
  else (.nack, { v with awaitAddr := false, sel := false })

/-- On a data byte: the first sets the pointer, the others are stored at it. -/
def slaveData (v : RefSlave) (b : Byte) : Ack × RefSlave :=
  if v.sel = true ∧ v.rw = false then
    if v.first then (.ack, { v with ptr := b, first := false })
    else (.ack, { v with regs := v.regs.write v.ptr.toNat b, ptr := v.ptr + 1 })
  else (.nack, v)

/-- On `W(b)`: the answer and the slave after it. -/
def slaveWrite (v : RefSlave) (b : Byte) : Ack × RefSlave := if v.awaitAddr then slaveAddress v b else slaveData v b

/-- On `R`: the byte supplied and the slave after it; a read nobody drives gives 0xFF. -/
def slaveRead (v : RefSlave) : Byte × RefSlave :=
  if v.sel = true ∧ v.rw = true then (v.regs.read v.ptr.toNat, { v with ptr := v.ptr + 1 }) else (0xFF, v)

/-- `RefSlave(A, regs)` in its initial state (R65). -/
def RefSlave.fresh (a : DevAddr) (regs : Memory) : RefSlave where
  addr := a
  regs := regs
  ptr := 0
  sel := false
  rw := false
  first := false
  awaitAddr := false

end Sys2Proof.Machine
end

