-- ==== Sys2Proof/Machine/Engine.lean ====
section
/-! DEFINITION. The I2C engine (spec/41_i2c.md R140 to R143) and the Bus that answers it (R144). When a reference slave is
attached it is the Bus (20_memory.md R65); else the Bus answers what the engine's turn carries, under no law. -/

namespace Sys2Proof.Machine

/-- The Bus lets a start or a stop through (R144). -/
def busGrants (s : State) (a : BusAnswer) : Bool :=
  match s.slave with
  | some _ => true
  | none => decide (a ≠ .withhold)

/-- The Bus's acknowledge bit for the byte being sent, or none: it withholds (R144). -/
def busAck (s : State) (a : BusAnswer) : Option Ack :=
  match s.slave with
  | some v => some (slaveWrite v s.i2c.dr).1
  | none => match a with
    | .withhold => none
    | .answer k _ => some k

/-- The byte the Bus supplies to a receive, or none: it withholds (R144). -/
def busData (s : State) (a : BusAnswer) : Option Byte :=
  match s.slave with
  | some v => some (slaveRead v).1
  | none => match a with
    | .withhold => none
    | .answer _ d => some d

/-- EngStop (R140): it does not set `i2c.done`. -/
def engStop (s : State) : State :=
  ((s.emit .p).setI2c { s.i2c with stopPend := false, srCode := codeOf s.params.st.idle }).setSlave (s.slave.map slaveStop)

/-- EngStart (R141): a start from phase Started, a repeated start otherwise. -/
def engStart (s : State) : State :=
  if s.i2c.phase = .started then
    ((s.emit .s).setI2c (engineDone s.i2c s.params.st.start)).setSlave (s.slave.map slaveStart)
  else
    ((s.emit .sr).setI2c (engineDone s.i2c s.params.st.repStart)).setSlave (s.slave.map slaveStart)

/-- EngTx with the acknowledge bit `a` (R142). -/
def engTx (a : Ack) (s : State) : State :=
  ((s.emit (.w s.i2c.dr a)).setI2c (engineDone s.i2c (txStatus s.params.st s.i2c.txkind a))).setSlave
    (s.slave.map fun v => (slaveWrite v s.i2c.dr).2)

/-- EngRx with the byte `d` (R143). -/
def engRx (d : Byte) (s : State) : State :=
  ((s.emit (.r d (rxAckBit s.i2c))).setI2c (engineDone { s.i2c with dr := d } (rxStatus s.params.st s.i2c))).setSlave
    (s.slave.map fun v => (slaveRead v).2)

/-- The engine's turn, the Bus answering `a`. While a stop is pending the engine performs nothing else (R140); otherwise it
performs its command, if it has one and the Bus answers; otherwise no engine step is enabled. -/
def engineTurn (a : BusAnswer) (s : State) : State :=
  if s.i2c.stopPend then (if busGrants s a then engStop s else s)
  else match s.i2c.cmd with
    | .none => s
    | .start => if busGrants s a then engStart s else s
    | .tx => match busAck s a with
      | none => s
      | some k => engTx k s
    | .rx => match busData s a with
      | none => s
      | some d => engRx d s

end Sys2Proof.Machine
end

