-- ==== Sys2Proof/Machine/Port.lean ====
section
/-! DEFINITION. The turns of the agents (spec/00_scope.md R8): presenting an operation word (R10, R81), taking a command
byte (44_cmd.md R200), and the choice of the agent that moves next. -/

namespace Sys2Proof.Machine

/-- The block accepts one operation word: it is decoded and performed; a reserved word is refused (R87, R231). -/
def presentWord (w : OpWord) (s : State) : Result :=
  match decodeOp16 w with
  | .op i => exec i s
  | .reserved => .refused .reservedOp

/-- The Dispatcher takes one byte (R200): the command it selects, or the unrecognised byte's rule (R205). -/
def dispatchByte (b : Byte) (s : State) : Result :=
  match decodeC8 b with
  | .command i => exec i s
  | .unrecognised b' => execUnrecognised b' s

/-- The Host's turn (R81): with an interrupt due no Host step is enabled (R189); a waiting Host completes or is held; a free
Host presents its next word, if it has one and has not halted (60_exceptions.md R246). -/
def hostTurn (s : State) : Result :=
  if handlerDue s then .next s
  else match s.busy with
    | some k => .next (completeStep k s)
    | none =>
      if s.halted then .next s
      else match s.words with
        | [] => .next s
        | w :: ws => presentWord w (s.setWords ws)

/-- The Dispatcher's turn (R200): enabled only when the port is free, no interrupt is due and a byte is available; its steps
are Host steps (R8), so a halted Host takes none (R246). -/
def dispatcherTurn (s : State) : Result :=
  if handlerDue s || s.busy.isSome || s.halted then .next s
  else match s.bytes with
    | [] => .next s
    | b :: bs => dispatchByte b (s.setBytes bs)

/-- The step of the agent whose turn it is; a step that is not enabled changes nothing (R8, R13; log 5). -/
def agentStep : Turn → State → Result
  | .host, s => hostTurn s
  | .dispatcher, s => dispatcherTurn s
  | .handler, s => .next (takeInterrupt s)
  | .tickTimer, s => .next (tickTimerStep s)
  | .pwmTimer, s => .next (pwmTimerStep s)
  | .engine a, s => .next (engineTurn a s)

/-- Whose turn it is: the head of the script, or a free choice when the script is empty (R8; log 4). -/
def State.turn (s : State) : Turn :=
  match s.turns with
  | t :: _ => t
  | [] => Config.turn s.drawn

/-- The state once the turn is taken from the script, or drawn. -/
def State.turnTaken (s : State) : State :=
  match s.turns with
  | _ :: ts => s.setTurns ts s.drawn
  | [] => s.setTurns [] (s.drawn + 1)

/-- `s` with one instruction of `nbits` bits `w` placed where the very next step takes it: first in its stream, the turn
given to the agent that takes it, the port free, the Host running and no interrupt due. Any other length is no
instruction (R80; log 7). -/
def placeFirst (s : State) (nbits w : Nat) : State :=
  let free := { s with busy := none, halted := false, tick := { s.tick with pend := s.tick.pend && !s.gie } }
  if nbits = 16 then { free with words := BitVec.ofNat 16 w :: s.words, turns := .host :: s.turns }
  else if nbits = 8 then { free with bytes := BitVec.ofNat 8 w :: s.bytes, turns := .dispatcher :: s.turns }
  else s

end Sys2Proof.Machine
end

