-- ==== Sys2Proof/Machine/Step.lean ====
section
/-! DEFINITION. One step of the block: the agent whose turn it is takes its step (spec/00_scope.md R8, R9). -/

namespace Sys2Proof.Machine

/-- One atomic step of one agent. -/
def step (s : State) : Host.Outcome State Fault Refusal := agentStep s.turn s.turnTaken

/-- `s` with an instruction of `nbits` bits `w` where `step` takes its next one. -/
def State.withFetchWord (s : State) (nbits w : Nat) : State := placeFirst s nbits w

end Sys2Proof.Machine
end

