-- ==== Sys2Proof/Machine/Transactions.lean ====
section
/-! DEFINITION. The pseudo-instructions (30_encoding.md R92; 42_i2c_transactions.md R160 to R169; 43_tick.md R186; 44_cmd.md
R200): fixed expansions into the operations of the block, and what the host computes from the bytes
they return. They add no state and no behaviour (R160); log 18.
HALT (60_exceptions.md R246) is `State.halt` (Ops.lean); the sampling loop (R172) is in Program.lean. -/

namespace Sys2Proof.Machine

/-- `REGWR dev, reg, data` (R161). -/
def regwr (dev : DevAddr) (reg data : Byte) : List Instr :=
  [.i2cStart, .i2cWrite (addrW dev), .i2cWrite reg, .i2cWrite data, .i2cStop]

/-- How a register read and a burst read are opened: a write phase with the register address, a repeated start, the read
address (R162, R163). -/
def openRead (dev : DevAddr) (reg : Byte) : List Instr :=
  [.i2cStart, .i2cWrite (addrW dev), .i2cWrite reg, .i2cStart, .i2cWrite (addrR dev)]

/-- `v <- REGRD dev, reg` (R162). -/
def regrd (dev : DevAddr) (reg : Byte) : List Instr := openRead dev reg ++ [.i2cReadnack, .i2cStop]

/-- `v[0..n-1] <- BURSTRD dev, reg, n`, for `n >= 1` (R163). -/
def burstrd (dev : DevAddr) (reg : Byte) (n : Nat) : List Instr :=
  openRead dev reg ++ List.replicate (n - 1) .i2cReadack ++ [.i2cReadnack, .i2cStop]

/-- `VERIFYID`, its operations (R166). -/
def verifyid (p : SensorParams) : List Instr := regrd p.devAddr p.idReg

/-- `VERIFYID`, its result from the byte read (R166). -/
def verifyidOk (p : SensorParams) (v : Byte) : Bool := decide (v = p.idExpected)

/-- `SENSORCFG a, g`: the accelerometer first (R167). -/
def sensorcfg (p : SensorParams) (a g : Byte) : List Instr :=
  regwr p.devAddr p.accelCtrlReg a ++ regwr p.devAddr p.gyroCtrlReg g

/-- `READACCEL`, its operations (R168). -/
def readaccel (p : SensorParams) : List Instr := burstrd p.devAddr p.accelOutBase Config.nAccelBytes

/-- `READACCEL`, the three raw integers from the six bytes, low byte first (R168, R169). -/
def axes : List Byte → Option (Int × Int × Int)
  | [xl, xh, yl, yh, zl, zh] => some (int16 xh xl, int16 yh yl, int16 zh zl)
  | _ => none

/-- `CONSUME`, its first operation (R186). -/
def consumeRead : List Instr := [.tickRdflag]

/-- `CONSUME`, what follows the result of the read (R186). -/
def consumeClear (ret : Byte) : List Instr := if ret = 1 then [.tickClrflag] else []

/-- `CMD b`: the C8 instruction the byte decodes to (R92, R200). -/
def cmd (b : Byte) : Decoded8 := decodeC8 b

/-- The operation words of a sequence of operations; a C8 command has none. -/
def opWords (is : List Instr) : List OpWord :=
  is.filterMap fun i => match encode i with
    | .op16 w => some w
    | .c8 _ => none

end Sys2Proof.Machine
end

