-- ==== Sys2Proof/Safety.lean ====
section
/-! DEFINITION. What counts as a good state and a good run, in the terms the statements use: the invariants of
10_state.md R52, the shape of the bus trace (41_i2c.md R148), the end of a run and the fairness premises
(70_reset_and_hazards.md R282, R283), and the relation "equal but for what the spec leaves unspecified" (R260). -/

namespace Sys2Proof.Machine

/-! ### Transactions on the bus (R148) -/

/-- The read part of a transaction: acknowledged reads, then one not acknowledged (R148). -/
def readPart (acked : List Byte) (last : Byte) : List BusEvent := acked.map (fun b => .r b .ack) ++ [.r last .nack]

/-- A write phase: the address byte with the write bit, then data bytes, each answered either way (R148). -/
def writePart (addr : Byte) (a : Ack) (data : List (Byte × Ack)) : List BusEvent :=
  .s :: .w addr a :: data.map (fun d => .w d.1 d.2)

/-- One transaction, of one of the two forms of R148; the optional part of the first form makes three. -/
inductive IsTransaction : List BusEvent → Prop where
  | write (addr : Byte) (a : Ack) (data : List (Byte × Ack)) (hw : isRead addr = false) :
      IsTransaction (writePart addr a data ++ [.p])
  | writeRead (addr addr' : Byte) (a a' : Ack) (data : List (Byte × Ack)) (acked : List Byte) (last : Byte)
      (hw : isRead addr = false) (hr : isRead addr' = true) (hd : deviceOf addr' = deviceOf addr) :
      IsTransaction (writePart addr a data ++ [.sr, .w addr' a'] ++ readPart acked last ++ [.p])
  | read (addr : Byte) (a : Ack) (acked : List Byte) (last : Byte) (hr : isRead addr = true) :
      IsTransaction ([.s, .w addr a] ++ readPart acked last ++ [.p])

/-- The shape R148 gives `bus.trace`: a prefix of a sequence of transactions. -/
def TraceShape (tr : List BusEvent) : Prop :=
  ∃ ts : List (List BusEvent), (∀ t ∈ ts, IsTransaction t) ∧ tr <+: ts.flatten

/-- Where a trace of that shape ends, inside a transaction or between two. -/
inductive TracePos where
  | idle
  | started
  | mt (dev : DevAddr)
  | repStarted (dev : DevAddr)
  | mr
  | mrLast
  deriving DecidableEq, Repr

/-- The position after one more event; none: the event breaks the shape. -/
def tracePosStep : TracePos → BusEvent → Option TracePos
  | .idle, .s => some .started
  | .started, .w b _ => some (if isRead b then .mr else .mt (deviceOf b))
  | .mt d, .w _ _ => some (.mt d)
  | .mt d, .sr => some (.repStarted d)
  | .mt _, .p => some .idle
  | .repStarted d, .w b _ => if isRead b = true ∧ deviceOf b = d then some .mr else none
  | .mr, .r _ .ack => some .mr
  | .mr, .r _ .nack => some .mrLast
  | .mrLast, .p => some .idle
  | _, _ => none

/-- The position a trace ends in. -/
def tracePos (tr : List BusEvent) : Option TracePos := tr.foldl (fun p e => p.bind (tracePosStep · e)) (some .idle)

/-! ### Invariants (R52) -/

/-- The PWM unit (R52 items 1 and 2, and R32's link between the level and the compare register). -/
abbrev PwmInv (s : State) : Prop :=
  (s.pwm.cfg = true → s.pwm.mode = .fastNonInv ∧ s.pwm.oe = true ∧ s.pwm.top = s.params.pwmTop ∧
    s.pwm.cmpBuf ≤ s.pwm.top ∧ s.pwm.cmpAct ≤ s.pwm.top ∧ s.pwm.cnt ≤ s.pwm.top ∧
    s.pwm.cmpBuf.toNat = s.pwm.top.toNat * pct s.pwm.level / 100) ∧
  (s.pwm.cfg = false → s.pwm.mode = .disconnected ∧ s.pwm.oe = false)

/-- The tick source (R52 items 3 and 7). -/
abbrev TickInv (s : State) : Prop :=
  s.tick.count ≤ 99 ∧ (s.tick.run = false → s.tick.pend = false ∧ s.tick.count = 0 ∧ s.tick.flag = false)

/-- The waiting Host and the pending command belong together (R52 item 4, made inductive): a pending command has its Host
waiting and the completion bit clear, and a Host that waits with nothing pending may complete. -/
abbrev WaitInv (s : State) : Prop :=
  match s.i2c.cmd with
  | .none => s.busy = none ∨ s.i2c.done = true
  | .start => s.busy = some .start ∧ s.i2c.done = false
  | .tx => s.busy = some .tx ∧ s.i2c.done = false
  | .rx => s.busy = some (if s.i2c.ackEn then .rxAck else .rxNack) ∧ s.i2c.done = false

/-- The device is known from the address byte on, until the stop (R52 item 6). -/
abbrev DevInv (s : State) : Prop := s.i2c.dev = none ↔ (s.i2c.phase = .idle ∨ s.i2c.phase = .started)

/-- Where the trace must stand, given what the Host has issued and the engine has not yet performed. -/
def posMatches (i : I2c) (p : TracePos) : Bool :=
  if i.stopPend then
    (match p with
      | .mt _ => true
      | .mrLast => true
      | _ => false) &&
    (decide (i.cmd = .none ∧ i.phase = .idle) || decide (i.cmd = .start ∧ i.phase = .started))
  else match i.cmd, i.phase with
    | .none, .idle => decide (p = .idle)
    | .none, .started => decide (p = .started)
    | .none, .mt => decide (i.dev.map TracePos.mt = some p)
    | .none, .repStarted => decide (i.dev.map TracePos.repStarted = some p)
    | .none, .mr => decide (p = .mr)
    | .none, .mrLast => decide (p = .mrLast)
    | .start, .started => decide (p = .idle)
    | .start, .repStarted => decide (i.dev.map TracePos.mt = some p)
    | .tx, .mt =>
      decide (i.txkind = .addrW ∧ p = .started ∧ isRead i.dr = false ∧ i.dev = some (deviceOf i.dr)) ||
        decide (i.txkind = .data ∧ i.dev.map TracePos.mt = some p)
    | .tx, .mr =>
      decide (i.txkind = .addrR ∧ isRead i.dr = true ∧ i.dev = some (deviceOf i.dr)) &&
        (decide (p = .started) || decide (p = .repStarted (deviceOf i.dr)))
    | .rx, .mr => decide (i.ackEn = true ∧ p = .mr)
    | .rx, .mrLast => decide (i.ackEn = false ∧ p = .mr)
    | _, _ => false

/-- The trace is a prefix of a sequence of transactions, and stands where the Host's phase and the engine's pending work
say (R148; R52 item 5 is a consequence). -/
abbrev TraceInv (s : State) : Prop :=
  match tracePos s.trace with
  | some p => posMatches s.i2c p = true
  | none => False

/-- The status code is one of the table's (R37, R38). -/
abbrev CodeInv (s : State) : Prop := s.i2c.srCode ∈ s.params.st.values.map codeOf

/-- An attached reference slave holds its registers in canonical form. -/
abbrev SlaveInv (s : State) : Prop :=
  match s.slave with
  | none => True
  | some v => v.regs.wf

/-- The invariant of the whole block. -/
structure Inv (s : State) : Prop where
  pwm : PwmInv s
  tick : TickInv s
  wait : WaitInv s
  dev : DevInv s
  trace : TraceInv s
  code : CodeInv s
  slave : SlaveInv s

/-! ### What is left unspecified (R260, R37) -/

/-- The data register holds a value a rule may still read: a byte to send, or a byte received and not yet taken by the
waiting Host (R36). -/
def drLive (s : State) : Bool :=
  decide (s.i2c.cmd = .tx) || (decide (s.busy = some .rxAck ∨ s.busy = some .rxNack) &&
    (s.i2c.done || decide (s.i2c.cmd ≠ .rx)))

/-- `s` and `t` are equal but for fields that hold no specified value in them: the PWM registers before configuration, the
divisor, the low status bits, the data register outside an operation, the kind of a byte that is not pending (R260, R35,
R36, R37, R41). -/
structure SameSpecified (s t : State) : Prop where
  gie : s.gie = t.gie
  busy : s.busy = t.busy
  trace : s.trace = t.trace
  tick : s.tick = t.tick
  cmdOut : s.cmdOut = t.cmdOut
  slave : s.slave = t.slave
  params : s.params = t.params
  words : s.words = t.words
  bytes : s.bytes = t.bytes
  halted : s.halted = t.halted
  completions : s.completions = t.completions
  turns : s.turns = t.turns
  drawn : s.drawn = t.drawn
  cfg : s.pwm.cfg = t.pwm.cfg
  mode : s.pwm.mode = t.pwm.mode
  oe : s.pwm.oe = t.pwm.oe
  pwm : s.pwm.cfg = true ∨ s.pwm.oe = true → s.pwm = t.pwm
  en : s.i2c.en = t.i2c.en
  srCode : s.i2c.srCode = t.i2c.srCode
  done : s.i2c.done = t.i2c.done
  ackEn : s.i2c.ackEn = t.i2c.ackEn
  cmd : s.i2c.cmd = t.i2c.cmd
  stopPend : s.i2c.stopPend = t.i2c.stopPend
  phase : s.i2c.phase = t.i2c.phase
  dev : s.i2c.dev = t.i2c.dev
  dr : drLive s = true → s.i2c.dr = t.i2c.dr
  txkind : s.i2c.cmd = .tx → s.i2c.txkind = t.i2c.txkind

/-- Two outcomes that cannot be told apart by what the spec specifies. -/
def SameOutcome (a b : Result) : Prop :=
  match a, b with
  | .next s, .next t => SameSpecified s t
  | .refused r, .refused r' => r = r'
  | .fault e, .fault e' => e = e'
  | _, _ => False

/-! ### Runs -/

/-- The next step is the Host issuing the operation `i`: its turn, the port free, not halted, no interrupt due, and a word
that decodes to `i` first in line (R81, R246). -/
def Issues (s : State) (i : Instr) : Prop :=
  s.turn = .host ∧ handlerDue s = false ∧ s.busy = none ∧ s.halted = false ∧
    ∃ w ws, s.words = w :: ws ∧ decodeOp16 w = .op i

/-- The next step is the Dispatcher taking the byte `b` (R200). -/
def Takes (s : State) (b : Byte) : Prop :=
  s.turn = .dispatcher ∧ handlerDue s = false ∧ s.busy = none ∧ s.halted = false ∧ ∃ bs, s.bytes = b :: bs

/-- Only the free-running timers, and the handler behind them, still have anything to do (R282): the Host has nothing left to
issue and does not wait, and the engine owes the bus nothing. That a halted Host has nothing left to issue, so that the run
of a halted program counts as over, is the model's choice (DESIGN CHOICE, log 27): R282 does not say that a halted program
ever ends, and calls a program that loops for ever one without an end of run. -/
def settled (s : State) : Bool :=
  (s.halted || (s.words.isEmpty && s.bytes.isEmpty)) && s.busy.isNone && decide (s.i2c.cmd = .none) && !s.i2c.stopPend

/-- A run of the Host over the block is over (R282): nothing left to issue, nothing owed to the bus, no interrupt due. Whether
`PwmTimer` or `TickTimer` is enabled does not matter. -/
def runOver (s : State) : Bool := settled s && !handlerDue s

/-- What is left of a state when the five fields are erased that the further steps of the timers may change after the end of
a run (R282): `pwm.cnt`, `pwm.cmp_act`, `tick.pend`, `tick.count`, `tick.flag`. The script of turns and its counter, the
model's own record of those steps (log 4), are erased with them. The zeros stand for no value. -/
def finalView (s : State) : State :=
  { s with
    pwm := { s.pwm with cnt := 0, cmpAct := 0 },
    tick := { s.tick with pend := false, count := 0, flag := false },
    turns := [],
    drawn := 0 }

/-- Two states are the same final state: "the final state is taken up to their further steps", those of the timers (R282). The
pin is no part of it: R282 does not say that it stops toggling. -/
abbrev SameFinal (s t : State) : Prop := finalView s = finalView t

/-- A run from `s` is over in the final state `t`, up to the further steps of the timers (R282). -/
def EndsIn (s t : State) : Prop := ∃ n u, Sys2Proof.core.run n s = .next u ∧ runOver u = true ∧ SameFinal u t

/-- The sequencer is enabled, idle and owes the bus nothing, the port is free, the Host running and no interrupt due: a
transaction may begin (R120, R121, R81). -/
abbrev BusFree (s : State) : Prop :=
  s.i2c.en = true ∧ s.i2c.phase = .idle ∧ s.i2c.cmd = .none ∧ s.i2c.stopPend = false ∧ s.busy = none ∧ s.halted = false ∧
    handlerDue s = false

/-- The interleaving with an eager engine (95_test_vectors.md): each blocking operation is issued, performed and completed at
once, then the stop is issued and performed. -/
def eagerTurns (answers : List BusAnswer) (stop : BusAnswer) : List Turn :=
  answers.flatMap (fun a => [.host, .engine a, .host]) ++ [.host, .engine stop]

/-- The engine has something to perform. -/
def engineWaits (s : State) : Bool := s.i2c.stopPend || decide (s.i2c.cmd ≠ .none)

/-- The next step is an engine step that the Bus answers. -/
def engineServed (s : State) : Bool :=
  match s.turn with
  | .engine a => busGrants s a
  | _ => false

/-- An infinite run: every state steps to the next. -/
def IsRun (r : Nat → State) : Prop := ∀ n, step (r n) = .next (r (n + 1))

/-- `EngineFair` (R283): an engine with something to perform is eventually given a turn. -/
def EngineFair (r : Nat → State) : Prop := ∀ n, engineWaits (r n) = true → ∃ m ≥ n, ∃ a, (r m).turn = .engine a

/-- `BusResponsive` (R145, R283): an engine with something to perform is eventually given a turn that the Bus answers. -/
def BusResponsive (r : Nat → State) : Prop := ∀ n, engineWaits (r n) = true → ∃ m ≥ n, engineServed (r m) = true

/-- `HandlerFair` (R283): a due handler is eventually given its turn. -/
def HandlerFair (r : Nat → State) : Prop := ∀ n, handlerDue (r n) = true → ∃ m ≥ n, (r m).turn = .handler

end Sys2Proof.Machine
end

