-- ==== Sys2Proof/Certificates/Slice0/Obligations.lean ====
section
/-! DEFINITION. The statements for the provers. A next state is written out as a record update of the state before, so each
such equation says the result AND the frame: every field not named is unchanged, the bus trace, the logs, the other units
and an attached device's registers (every byte of memory there is) among them. -/

open Sys2Proof Sys2Proof.Machine

/-! ### Encoding -/

/-- Decode and encode agree on both streams (R84, R86): an encoding is decoded to `i` exactly when it is the one the encoder
writes, or it is the second byte of CMD.OFF. -/
def Obligations.DecodeAcceptsExactlyEncodings : Prop :=
  ∀ (e : Encoding) (i : Instr), decode e = some i ↔ (e = encode i ∨ (i = .cmdOff ∧ e = .c8 0x58))

/-- The reserved space of OP16 (R87): the list of the rule, the rows of the table and the decoder agree on every word, and
presenting a reserved word is the refusal ReservedOp in every state. -/
def Obligations.ReservedWordSpace : Prop :=
  ∀ w : OpWord,
    (decodeOp16 w = .reserved ↔
      (w.toNat / 4096 ≠ 1 ∧ w.toNat / 4096 ≠ 2 ∧ w.toNat / 4096 ≠ 3 ∧ w.toNat / 4096 ≠ 4) ∨
      (w.toNat / 4096 = 1 ∧ w.toNat / 256 % 16 > 1) ∨
      (w.toNat / 4096 = 2 ∧ w.toNat / 256 % 16 > 6) ∨
      (w.toNat / 4096 = 3 ∧ w.toNat / 256 % 16 > 4) ∨
      (w.toNat / 4096 = 4 ∧ w.toNat / 256 % 16 > 1) ∨
      (w.toNat % 256 ≠ 0 ∧ w.toNat / 256 ≠ 0x11 ∧ w.toNat / 256 ≠ 0x23) ∨
      (w.toNat / 256 = 0x11 ∧ w.toNat % 256 / 4 ≠ 0)) ∧
    (decodeOp16 w = .reserved ↔ ∀ row ∈ opTable, selectsOp w row = false) ∧
    (decodeOp16 w = .reserved → ∀ s : State, presentWord w s = .refused .reservedOp)

/-- The opcode map (R84): a word decodes to an operation exactly when it selects the operation's row, with the operand the
row gives; and two different rows never select one word. -/
def Obligations.OpcodeMapSelectsOperations : Prop :=
  ∀ w : OpWord,
    (decodeOp16 w = .op .pwmConfigure ↔ w &&& 0xFFFF = 0x1000) ∧
    (∀ l, decodeOp16 w = .op (.pwmSetduty l) ↔
      w &&& 0xFFFC = 0x1100 ∧ w &&& 0x0003 = (codeOfLevel l).setWidth 16) ∧
    (decodeOp16 w = .op .i2cInit ↔ w &&& 0xFFFF = 0x2000) ∧
    (decodeOp16 w = .op .i2cStart ↔ w &&& 0xFFFF = 0x2100) ∧
    (decodeOp16 w = .op .i2cStop ↔ w &&& 0xFFFF = 0x2200) ∧
    (∀ b, decodeOp16 w = .op (.i2cWrite b) ↔ w &&& 0xFF00 = 0x2300 ∧ b = w.setWidth 8) ∧
    (decodeOp16 w = .op .i2cReadack ↔ w &&& 0xFFFF = 0x2400) ∧
    (decodeOp16 w = .op .i2cReadnack ↔ w &&& 0xFFFF = 0x2500) ∧
    (decodeOp16 w = .op .i2cGetstatus ↔ w &&& 0xFFFF = 0x2600) ∧
    (decodeOp16 w = .op .tickInit ↔ w &&& 0xFFFF = 0x3000) ∧
    (decodeOp16 w = .op .tickRdflag ↔ w &&& 0xFFFF = 0x3100) ∧
    (decodeOp16 w = .op .tickClrflag ↔ w &&& 0xFFFF = 0x3200) ∧
    (decodeOp16 w = .op .tickRdcnt ↔ w &&& 0xFFFF = 0x3300) ∧
    (decodeOp16 w = .op .tickTake ↔ w &&& 0xFFFF = 0x3400) ∧
    (decodeOp16 w = .op .irqEnable ↔ w &&& 0xFFFF = 0x4000) ∧
    (decodeOp16 w = .op .irqDisable ↔ w &&& 0xFFFF = 0x4100) ∧
    (∀ r₁ ∈ opTable, ∀ r₂ ∈ opTable, selectsOp w r₁ = true → selectsOp w r₂ = true → r₁ = r₂)

/-- The command bytes (R86) and the unrecognised space (R88): five bytes are commands, and each of the other 251 is
unrecognised, no error, and performs the rule of the unrecognised byte in every state. -/
def Obligations.CommandByteMap : Prop :=
  (∀ b : Byte,
    (decodeC8 b = .command .cmdLow ↔ b = 0x77) ∧
    (decodeC8 b = .command .cmdMed ↔ b = 0x73) ∧
    (decodeC8 b = .command .cmdHigh ↔ b = 0x57) ∧
    (decodeC8 b = .command .cmdOff ↔ b = 0x78 ∨ b = 0x58) ∧
    (b &&& 0xDF = 0x58 ↔ b = 0x78 ∨ b = 0x58) ∧
    ((∀ row ∈ cmdTable, selectsCmd b row = false) ↔ decodeC8 b = .unrecognised b) ∧
    (decodeC8 b = .unrecognised b ↔ b ∉ ([0x77, 0x73, 0x57, 0x78, 0x58] : List Byte)) ∧
    (decodeC8 b = .unrecognised b →
      ∀ s : State, dispatchByte b s = .next { s with cmdOut := s.cmdOut ++ [.unrec b] })) ∧
  ((List.range 256).filter fun n => decide (decodeC8 (BitVec.ofNat 8 n) = .unrecognised (BitVec.ofNat 8 n))).length = 251

/-- The worked encodings of R96, row by row. -/
def Obligations.WorkedEncodings : Prop :=
  encode .pwmConfigure = .op16 0x1000 ∧
  encode (.pwmSetduty .off) = .op16 0x1100 ∧ encode (.pwmSetduty .low) = .op16 0x1101 ∧
  encode (.pwmSetduty .medium) = .op16 0x1102 ∧ encode (.pwmSetduty .high) = .op16 0x1103 ∧
  encode (.i2cWrite 0x00) = .op16 0x2300 ∧ encode (.i2cWrite 0xFF) = .op16 0x23FF ∧
  encode .i2cReadnack = .op16 0x2500 ∧ encode .tickTake = .op16 0x3400 ∧
  decodeOp16 0x1000 = .op .pwmConfigure ∧
  decodeOp16 0x1100 = .op (.pwmSetduty .off) ∧ decodeOp16 0x1101 = .op (.pwmSetduty .low) ∧
  decodeOp16 0x1102 = .op (.pwmSetduty .medium) ∧ decodeOp16 0x1103 = .op (.pwmSetduty .high) ∧
  decodeOp16 0x2300 = .op (.i2cWrite 0x00) ∧ decodeOp16 0x23FF = .op (.i2cWrite 0xFF) ∧
  decodeOp16 0x2500 = .op .i2cReadnack ∧ decodeOp16 0x3400 = .op .tickTake ∧
  decodeC8 0x77 = .command .cmdLow ∧ decodeC8 0x73 = .command .cmdMed ∧ decodeC8 0x57 = .command .cmdHigh ∧
  decodeC8 0x78 = .command .cmdOff ∧ decodeC8 0x58 = .command .cmdOff ∧ decodeC8 0x71 = .unrecognised 0x71 ∧
  decodeOp16 0x1104 = .reserved ∧ decodeOp16 0x2201 = .reserved ∧ decodeOp16 0x0000 = .reserved ∧
  decodeOp16 0x5000 = .reserved ∧ decodeOp16 0x2700 = .reserved ∧ decodeOp16 0x3500 = .reserved ∧
  decodeOp16 0x4200 = .reserved

/-! ### A step runs the decoded operation -/

/-- On the Host's turn, with the port free, the Host not halted and no interrupt due, the step is `exec` of the operation
the first word decodes to, at the state with the word and the turn taken and nothing else changed. -/
def Obligations.HostTurnRunsPresentedOperation : Prop :=
  ∀ (s : State) (w : OpWord) (ws : List OpWord) (i : Instr),
    s.turn = .host → handlerDue s = false → s.busy = none → s.halted = false → s.words = w :: ws →
    decodeOp16 w = .op i →
    i.wellFormed = true ∧
    step s = exec i { s with
      words := ws, turns := s.turns.tail, drawn := if s.turns = [] then s.drawn + 1 else s.drawn }

/-- On the Dispatcher's turn, with the port free, the Host not halted and no interrupt due, the step is `exec` of the
command the first byte decodes to, or the echo of an unrecognised byte, at the state with the byte and the turn taken. -/
def Obligations.DispatcherTurnRunsReceivedByte : Prop :=
  ∀ (s : State) (b : Byte) (bs : List Byte),
    s.turn = .dispatcher → handlerDue s = false → s.busy = none → s.halted = false → s.bytes = b :: bs →
    (∀ i, decodeC8 b = .command i → i.wellFormed = true ∧
      step s = exec i { s with
        bytes := bs, turns := s.turns.tail, drawn := if s.turns = [] then s.drawn + 1 else s.drawn }) ∧
    (decodeC8 b = .unrecognised b →
      step s = .next { s with
        cmdOut := s.cmdOut ++ [.unrec b], bytes := bs, turns := s.turns.tail,
        drawn := if s.turns = [] then s.drawn + 1 else s.drawn })

/-- An instruction placed by `withFetchWord` is run by the very next step, in any state: the model's own convention,
notes/assumptions/7.md. -/
def Obligations.PlacedInstructionRunsNext : Prop :=
  ∀ (s : State) (nbits w : Nat) (i : Instr), decodeTableWord nbits w = some i →
    step (s.withFetchWord nbits w) =
      exec i { s with busy := none, halted := false, tick := { s.tick with pend := s.tick.pend && !s.gie } }

/-- A turn whose agent has no enabled step changes nothing but the script of turns: the Host and the Dispatcher while an
interrupt is due, a waiting Host while the completion bit is clear, the Dispatcher while the Host waits, either with an
empty stream or after HALT. The model's own convention, notes/assumptions/5.md and 25.md. -/
def Obligations.HeldAgentChangesNothing : Prop :=
  ∀ s : State,
    (handlerDue s = true ∨ (∃ k, s.busy = some k ∧ s.i2c.done = false) ∨
      (s.busy = none ∧ (s.words = [] ∨ s.halted = true)) → hostTurn s = .next s) ∧
    (handlerDue s = true ∨ s.busy ≠ none ∨ s.bytes = [] ∨ s.halted = true → dispatcherTurn s = .next s) ∧
    (s.tick.pend = false ∨ s.gie = false → agentStep .handler s = .next s) ∧
    (s.tick.run = false ∨ handlerDue s = true → agentStep .tickTimer s = .next s) ∧
    (s.pwm.cfg = false → agentStep .pwmTimer s = .next s) ∧
    (s.i2c.stopPend = false ∧ s.i2c.cmd = .none → ∀ a, agentStep (.engine a) s = .next s)

/-- The refusals are exactly the closed list of R231, each raised when and only when its row says, in the order of R232; no
operation ends in any other refusal. -/
def Obligations.RefusalsAreTheClosedList : Prop :=
  (∀ (i : Instr) (s : State) (r : Refusal), exec i s = .refused r ↔
    (r = .pwmReconfigure ∧ i = .pwmConfigure ∧ s.pwm.cfg = true) ∨
    (r = .pwmNotConfigured ∧ s.pwm.cfg = false ∧
      ((∃ l, i = .pwmSetduty l) ∨ i = .cmdLow ∨ i = .cmdMed ∨ i = .cmdHigh ∨ i = .cmdOff)) ∨
    (r = .i2cReinit ∧ i = .i2cInit ∧ s.i2c.en = true) ∨
    (r = .i2cNotEnabled ∧ s.i2c.en = false ∧
      (i = .i2cStart ∨ i = .i2cStop ∨ (∃ b, i = .i2cWrite b) ∨ i = .i2cReadack ∨ i = .i2cReadnack)) ∨
    (r = .i2cProtocol ∧ s.i2c.en = true ∧
      ((i = .i2cStart ∧ s.i2c.phase ≠ .idle ∧ s.i2c.phase ≠ .mt) ∨
       (i = .i2cStop ∧ s.i2c.phase ≠ .mt ∧ s.i2c.phase ≠ .mrLast) ∨
       ((∃ b, i = .i2cWrite b) ∧ (s.i2c.phase = .idle ∨ s.i2c.phase = .mr ∨ s.i2c.phase = .mrLast)) ∨
       ((i = .i2cReadack ∨ i = .i2cReadnack) ∧ s.i2c.phase ≠ .mr))) ∨
    (r = .i2cRepStartTarget ∧ s.i2c.en = true ∧ s.i2c.phase = .repStarted ∧
      ∃ b, i = .i2cWrite b ∧ ¬(b.getLsbD 0 = true ∧ s.i2c.dev = some (b.extractLsb' 1 7))) ∨
    (r = .tickReinit ∧ i = .tickInit ∧ s.tick.run = true)) ∧
  (∀ (w : OpWord) (s : State) (r : Refusal), presentWord w s = .refused r ↔
    (decodeOp16 w = .reserved ∧ r = .reservedOp) ∨ ∃ i, decodeOp16 w = .op i ∧ exec i s = .refused r)

/-! ### The PWM duty controller -/

/-- PWM.CONFIGURE (R101) and its second call (R103): the whole next state; the pin is then driven low and the timer is
enabled. -/
def Obligations.PwmConfigureResult : Prop :=
  decodeOp16 0x1000 = .op .pwmConfigure ∧
  ∀ s : State,
    (s.pwm.cfg = false → ∃ t, exec .pwmConfigure s = .next t ∧
      t = { s with
        pwm := { cfg := true, mode := .fastNonInv, oe := true, top := s.params.pwmTop, cmpBuf := 0, cmpAct := 0,
                 cnt := 0, level := .off },
        completions := s.completions ++ [none] } ∧
      t.pwmOut = .low ∧ (t.pwm.top ≠ 0 → agentStep .pwmTimer t = .next { t with pwm := { t.pwm with cnt := 1 } })) ∧
    (s.pwm.cfg = true → exec .pwmConfigure s = .refused .pwmReconfigure)

/-- PWM.SETDUTY (R104) and its call before configuration (R106): the compare buffer and the level, the pin unchanged. -/
def Obligations.PwmSetdutyResult : Prop :=
  ∀ l : DutyLevel, decodeOp16 (0x1100 ||| (codeOfLevel l).setWidth 16) = .op (.pwmSetduty l) ∧
  ∀ s : State,
    (s.pwm.cfg = true → ∃ t, exec (.pwmSetduty l) s = .next t ∧
      t = { s with
        pwm := { s.pwm with
          cmpBuf := BitVec.ofNat 8 (s.pwm.top.toNat *
            (match l with | .off => 0 | .low => 25 | .medium => 50 | .high => 80) / 100),
          level := l },
        completions := s.completions ++ [none] } ∧
      t.pwmOut = s.pwmOut) ∧
    (s.pwm.cfg = false → exec (.pwmSetduty l) s = .refused .pwmNotConfigured)

/-- The compare value (R105), for every top of every width: the exact product, floor division, at most the top, monotone in
the level, no truncation in the 8-bit register, and the four values of the 8-bit top. -/
def Obligations.CompareValueArithmetic : Prop :=
  (∀ (top : Nat) (l : DutyLevel), compareNat top l =
      top * (match l with | .off => 0 | .low => 25 | .medium => 50 | .high => 80) / 100 ∧ compareNat top l ≤ top) ∧
  (∀ top : Nat, compareNat top .off = 0 ∧ compareNat top .off ≤ compareNat top .low ∧
    compareNat top .low ≤ compareNat top .medium ∧ compareNat top .medium ≤ compareNat top .high) ∧
  (∀ (top : Byte) (l : DutyLevel), (compareValue top l).toNat = compareNat top.toNat l ∧ compareValue top l ≤ top) ∧
  compareValue 255 .off = 0 ∧ compareValue 255 .low = 63 ∧ compareValue 255 .medium = 127 ∧ compareValue 255 .high = 204

/-- One PwmTimer step (R108): at the top the counter restarts and the buffer is latched; else the counter moves by one; not
enabled before configuration. -/
def Obligations.PwmTimerClock : Prop :=
  ∀ s : State,
    (s.pwm.cfg = true → s.pwm.cnt = s.pwm.top →
      agentStep .pwmTimer s = .next { s with pwm := { s.pwm with cnt := 0, cmpAct := s.pwm.cmpBuf } }) ∧
    (s.pwm.cfg = true → s.pwm.cnt ≠ s.pwm.top →
      agentStep .pwmTimer s = .next { s with pwm := { s.pwm with cnt := s.pwm.cnt + 1 } }) ∧
    (s.pwm.cfg = false → agentStep .pwmTimer s = .next s)

/-- The latency of a duty change (R107, R110): from a counter at `cnt`, the timer keeps the old compare value and counts up
for `top - cnt` clocks, and the next clock latches the buffer at the period boundary; so between 1 and `top + 1` clocks. -/
def Obligations.DutyChangeLatency : Prop :=
  ∀ (s : State) (rest : List Turn), s.pwm.cfg = true → s.pwm.cnt ≤ s.pwm.top →
    (∀ k, k ≤ s.pwm.top.toNat - s.pwm.cnt.toNat →
      Sys2Proof.core.run k { s with turns := List.replicate k .pwmTimer ++ rest } =
        .next { s with pwm := { s.pwm with cnt := s.pwm.cnt + BitVec.ofNat 8 k }, turns := rest }) ∧
    Sys2Proof.core.run (s.pwm.top.toNat - s.pwm.cnt.toNat + 1)
        { s with turns := List.replicate (s.pwm.top.toNat - s.pwm.cnt.toNat + 1) .pwmTimer ++ rest } =
      .next { s with pwm := { s.pwm with cnt := 0, cmpAct := s.pwm.cmpBuf }, turns := rest } ∧
    1 ≤ s.pwm.top.toNat - s.pwm.cnt.toNat + 1 ∧
    s.pwm.top.toNat - s.pwm.cnt.toNat + 1 ≤ s.pwm.top.toNat + 1

/-- The waveform of one period (R109): from the start of a period in which the active compare value is `c`, the pin is high
in exactly the first `c` of the `top + 1` clocks. -/
def Obligations.WaveformOfOnePeriod : Prop :=
  ∀ (s : State) (k : Nat) (rest : List Turn),
    s.pwm.cfg = true → s.pwm.oe = true → s.pwm.mode = .fastNonInv → s.pwm.cnt = 0 → k ≤ s.pwm.top.toNat →
    ∃ t, Sys2Proof.core.run k { s with turns := List.replicate k .pwmTimer ++ rest } = .next t ∧
      t.pwm.cnt.toNat = k ∧ t.pwm.cmpAct = s.pwm.cmpAct ∧
      (t.pwmOut = .high ↔ k < s.pwm.cmpAct.toNat) ∧ (t.pwmOut = .low ↔ s.pwm.cmpAct.toNat ≤ k)

/-- The output pin (R33). -/
def Obligations.OutputPin : Prop :=
  ∀ s : State,
    (s.pwm.oe = false → s.pwmOut = .z) ∧
    (s.pwm.oe = true ∧ s.pwm.mode = .fastNonInv ∧ s.pwm.cnt < s.pwm.cmpAct → s.pwmOut = .high) ∧
    (s.pwm.oe = true ∧ ¬(s.pwm.mode = .fastNonInv ∧ s.pwm.cnt < s.pwm.cmpAct) → s.pwmOut = .low)

/-! ### The I2C master sequencer -/

/-- I2C.INIT (R122): the divisor of the OPEN function and the enable, nothing else; once. -/
def Obligations.I2cInitResult : Prop :=
  decodeOp16 0x2000 = .op .i2cInit ∧
  ∀ s : State,
    (s.i2c.en = false → exec .i2cInit s = .next { s with
      i2c := { s.i2c with div := Config.i2cDiv Config.fCpu Config.fScl, en := true },
      completions := s.completions ++ [none] }) ∧
    (s.i2c.en = true → exec .i2cInit s = .refused .i2cReinit)

/-- I2C.START, its issue step (R124): a start from Idle, a repeated start from MT, the device kept; nothing is put on the bus
yet and the Host waits. -/
def Obligations.I2cStartResult : Prop :=
  decodeOp16 0x2100 = .op .i2cStart ∧
  ∀ s : State,
    (s.i2c.en = true → s.i2c.phase = .idle → exec .i2cStart s = .next { s with
      i2c := { s.i2c with phase := .started, done := false, cmd := .start }, busy := some .start }) ∧
    (s.i2c.en = true → s.i2c.phase = .mt → exec .i2cStart s = .next { s with
      i2c := { s.i2c with phase := .repStarted, done := false, cmd := .start }, busy := some .start }) ∧
    (s.i2c.en = true → s.i2c.phase ≠ .idle → s.i2c.phase ≠ .mt → exec .i2cStart s = .refused .i2cProtocol) ∧
    (s.i2c.en = false → exec .i2cStart s = .refused .i2cNotEnabled)

/-- I2C.STOP (R127): it does not block, the stop is pending, the transaction is closed for the Host, the status code and the
trace are as before. -/
def Obligations.I2cStopResult : Prop :=
  decodeOp16 0x2200 = .op .i2cStop ∧
  ∀ s : State,
    (s.i2c.en = true → (s.i2c.phase = .mt ∨ s.i2c.phase = .mrLast) → exec .i2cStop s = .next { s with
      i2c := { s.i2c with done := false, stopPend := true, phase := .idle, dev := none },
      completions := s.completions ++ [none] }) ∧
    (s.i2c.en = true → s.i2c.phase ≠ .mt → s.i2c.phase ≠ .mrLast → exec .i2cStop s = .refused .i2cProtocol) ∧
    (s.i2c.en = false → exec .i2cStop s = .refused .i2cNotEnabled)

/-- I2C.WRITE, its issue step (R130), for every byte and every phase: the address byte after a start, the same device's read
address after a repeated start, a data byte in MT, a refusal elsewhere. -/
def Obligations.I2cWriteResult : Prop :=
  ∀ b : Byte, decodeOp16 (0x2300 ||| b.setWidth 16) = .op (.i2cWrite b) ∧
  ∀ s : State,
    (s.i2c.en = true → s.i2c.phase = .started → b.getLsbD 0 = false → exec (.i2cWrite b) s = .next { s with
      i2c := { s.i2c with dev := some (b.extractLsb' 1 7), phase := .mt, txkind := .addrW, dr := b, done := false,
                          cmd := .tx }, busy := some .tx }) ∧
    (s.i2c.en = true → s.i2c.phase = .started → b.getLsbD 0 = true → exec (.i2cWrite b) s = .next { s with
      i2c := { s.i2c with dev := some (b.extractLsb' 1 7), phase := .mr, txkind := .addrR, dr := b, done := false,
                          cmd := .tx }, busy := some .tx }) ∧
    (s.i2c.en = true → s.i2c.phase = .repStarted → b.getLsbD 0 = true → s.i2c.dev = some (b.extractLsb' 1 7) →
      exec (.i2cWrite b) s = .next { s with
        i2c := { s.i2c with phase := .mr, txkind := .addrR, dr := b, done := false, cmd := .tx }, busy := some .tx }) ∧
    (s.i2c.en = true → s.i2c.phase = .repStarted → ¬(b.getLsbD 0 = true ∧ s.i2c.dev = some (b.extractLsb' 1 7)) →
      exec (.i2cWrite b) s = .refused .i2cRepStartTarget) ∧
    (s.i2c.en = true → s.i2c.phase = .mt → exec (.i2cWrite b) s = .next { s with
      i2c := { s.i2c with txkind := .data, dr := b, done := false, cmd := .tx }, busy := some .tx }) ∧
    (s.i2c.en = true → (s.i2c.phase = .idle ∨ s.i2c.phase = .mr ∨ s.i2c.phase = .mrLast) →
      exec (.i2cWrite b) s = .refused .i2cProtocol) ∧
    (s.i2c.en = false → exec (.i2cWrite b) s = .refused .i2cNotEnabled)

/-- I2C.READACK (R133) and I2C.READNACK (R135), their issue steps: the acknowledgement bit asserted or withheld, the receive
triggered, the phase kept or closed to further reads. -/
def Obligations.I2cReadResults : Prop :=
  decodeOp16 0x2400 = .op .i2cReadack ∧ decodeOp16 0x2500 = .op .i2cReadnack ∧
  ∀ s : State,
    (s.i2c.en = true → s.i2c.phase = .mr → exec .i2cReadack s = .next { s with
      i2c := { s.i2c with ackEn := true, done := false, cmd := .rx }, busy := some .rxAck }) ∧
    (s.i2c.en = true → s.i2c.phase = .mr → exec .i2cReadnack s = .next { s with
      i2c := { s.i2c with ackEn := false, phase := .mrLast, done := false, cmd := .rx }, busy := some .rxNack }) ∧
    (s.i2c.en = true → s.i2c.phase ≠ .mr →
      exec .i2cReadack s = .refused .i2cProtocol ∧ exec .i2cReadnack s = .refused .i2cProtocol) ∧
    (s.i2c.en = false →
      exec .i2cReadack s = .refused .i2cNotEnabled ∧ exec .i2cReadnack s = .refused .i2cNotEnabled)

/-- I2C.GETSTATUS (R137): in every state it returns the status code in place, the low three bits zero, and changes
nothing. -/
def Obligations.I2cGetstatusResult : Prop :=
  decodeOp16 0x2600 = .op .i2cGetstatus ∧
  ∀ s : State, exec .i2cGetstatus s = .next { s with
    completions := s.completions ++ [some (s.i2c.srCode ++ (0 : BitVec 3))] }

/-- The complete step of the blocking operations (R81): a waiting Host is released only when the completion bit is set, with
the data register as the result of a read and no result otherwise; while the bit is clear it is held. -/
def Obligations.WaitingHostCompletesOnDone : Prop :=
  ∀ s : State, handlerDue s = false →
    (s.i2c.done = true → (s.busy = some .start ∨ s.busy = some .tx) → hostTurn s = .next { s with
      busy := none, completions := s.completions ++ [none] }) ∧
    (s.i2c.done = true → (s.busy = some .rxAck ∨ s.busy = some .rxNack) → hostTurn s = .next { s with
      busy := none, completions := s.completions ++ [some s.i2c.dr] }) ∧
    (s.i2c.done = false → s.busy ≠ none → hostTurn s = .next s)

/-- EngStop (R140), for every Bus: the stop on the bus, the status idle, the completion bit as it was; and while it is pending
the engine performs nothing else, whatever its command, so a start triggered after a stop follows it. -/
def Obligations.EngineStopStep : Prop :=
  ∀ (s : State) (a : BusAnswer), s.i2c.stopPend = true →
    (busGrants s a = true → agentStep (.engine a) s = .next { s with
      trace := s.trace ++ [.p],
      i2c := { s.i2c with stopPend := false, srCode := s.params.st.idle.extractLsb' 3 5 },
      slave := s.slave.map slaveStop }) ∧
    (busGrants s a = false → agentStep (.engine a) s = .next s) ∧
    (s.slave = none → (busGrants s a = false ↔ a = .withhold))

/-- EngStart (R141), for every Bus: from phase Started a start, from RepStarted a repeated start, each with its status code
and the completion bit. -/
def Obligations.EngineStartStep : Prop :=
  ∀ (s : State) (a : BusAnswer), s.i2c.cmd = .start → s.i2c.stopPend = false →
    (busGrants s a = true → s.i2c.phase = .started → agentStep (.engine a) s = .next { s with
      trace := s.trace ++ [.s],
      i2c := { s.i2c with srCode := s.params.st.start.extractLsb' 3 5, cmd := .none, done := true },
      slave := s.slave.map slaveStart }) ∧
    (busGrants s a = true → s.i2c.phase = .repStarted → agentStep (.engine a) s = .next { s with
      trace := s.trace ++ [.sr],
      i2c := { s.i2c with srCode := s.params.st.repStart.extractLsb' 3 5, cmd := .none, done := true },
      slave := s.slave.map slaveStart }) ∧
    (busGrants s a = false → agentStep (.engine a) s = .next s)

/-- EngTx (R142), for every Bus: the byte of the data register is sent, the answer recorded, and the status code is the one
of the byte's kind and the answer. -/
def Obligations.EngineTransmitStep : Prop :=
  ∀ (s : State) (a : BusAnswer), s.i2c.cmd = .tx → s.i2c.stopPend = false →
    (∀ k, busAck s a = some k → agentStep (.engine a) s = .next { s with
      trace := s.trace ++ [.w s.i2c.dr k],
      i2c := { s.i2c with
        srCode := (match s.i2c.txkind, k with
          | .addrW, .ack => s.params.st.slawAck
          | .addrW, .nack => s.params.st.slawNack
          | .addrR, .ack => s.params.st.slarAck
          | .addrR, .nack => s.params.st.slarNack
          | .data, .ack => s.params.st.dataAck
          | .data, .nack => s.params.st.dataNack).extractLsb' 3 5,
        cmd := .none, done := true },
      slave := s.slave.map fun v => (slaveWrite v s.i2c.dr).2 }) ∧
    (busAck s a = none → agentStep (.engine a) s = .next s) ∧
    (s.slave = none → ∀ k, busAck s a = some k ↔ ∃ d, a = .answer k d)

/-- EngRx (R143), for every Bus: the byte of the Bus goes to the data register, the block answers with its acknowledgement
bit, and the status code says which. -/
def Obligations.EngineReceiveStep : Prop :=
  ∀ (s : State) (a : BusAnswer), s.i2c.cmd = .rx → s.i2c.stopPend = false →
    (∀ d, busData s a = some d → s.i2c.ackEn = true → agentStep (.engine a) s = .next { s with
      trace := s.trace ++ [.r d .ack],
      i2c := { s.i2c with dr := d, srCode := s.params.st.rxAck.extractLsb' 3 5, cmd := .none, done := true },
      slave := s.slave.map fun v => (slaveRead v).2 }) ∧
    (∀ d, busData s a = some d → s.i2c.ackEn = false → agentStep (.engine a) s = .next { s with
      trace := s.trace ++ [.r d .nack],
      i2c := { s.i2c with dr := d, srCode := s.params.st.rxNack.extractLsb' 3 5, cmd := .none, done := true },
      slave := s.slave.map fun v => (slaveRead v).2 }) ∧
    (busData s a = none → agentStep (.engine a) s = .next s) ∧
    (s.slave = none → ∀ d, busData s a = some d ↔ ∃ k, a = .answer k d)

/-- The reference slave (R65): its answer to every engine step and its state after it, whatever the turn carries; it never
stalls. -/
def Obligations.RefSlaveAnswers : Prop :=
  ∀ (s : State) (v : RefSlave) (a : BusAnswer), s.slave = some v →
    (s.i2c.stopPend = true → ∃ t, agentStep (.engine a) s = .next t ∧ t.trace = s.trace ++ [.p] ∧
      t.slave = some { v with sel := false, awaitAddr := false }) ∧
    (s.i2c.stopPend = false → s.i2c.cmd = .start → ∃ t, agentStep (.engine a) s = .next t ∧
      (s.i2c.phase = .started → t.trace = s.trace ++ [.s]) ∧ (s.i2c.phase = .repStarted → t.trace = s.trace ++ [.sr]) ∧
      t.slave = some { v with sel := false, awaitAddr := true }) ∧
    (s.i2c.stopPend = false → s.i2c.cmd = .tx → ∃ t k, agentStep (.engine a) s = .next t ∧
      t.trace = s.trace ++ [.w s.i2c.dr k] ∧
      (v.awaitAddr = true → s.i2c.dr.extractLsb' 1 7 = v.addr → k = .ack ∧
        t.slave = some { v with awaitAddr := false, sel := true, rw := s.i2c.dr.getLsbD 0, first := true }) ∧
      (v.awaitAddr = true → s.i2c.dr.extractLsb' 1 7 ≠ v.addr → k = .nack ∧
        t.slave = some { v with awaitAddr := false, sel := false }) ∧
      (v.awaitAddr = false → v.sel = true → v.rw = false → v.first = true → k = .ack ∧
        t.slave = some { v with ptr := s.i2c.dr, first := false }) ∧
      (v.awaitAddr = false → v.sel = true → v.rw = false → v.first = false → k = .ack ∧
        t.slave = some { v with regs := v.regs.write v.ptr.toNat s.i2c.dr, ptr := v.ptr + 1 }) ∧
      (v.awaitAddr = false → ¬(v.sel = true ∧ v.rw = false) → k = .nack ∧ t.slave = some v)) ∧
    (s.i2c.stopPend = false → s.i2c.cmd = .rx → ∃ t, agentStep (.engine a) s = .next t ∧
      t.trace = s.trace ++ [.r t.i2c.dr (if s.i2c.ackEn = true then .ack else .nack)] ∧
      (v.sel = true → v.rw = true → t.i2c.dr = v.regs.read v.ptr.toNat ∧ t.slave = some { v with ptr := v.ptr + 1 }) ∧
      (¬(v.sel = true ∧ v.rw = true) → t.i2c.dr = 0xFF ∧ t.slave = some v))

/-- The registers of the reference slave (R66): a read after a write gives the value written at its address and, at every
other address, what was there. -/
def Obligations.SlaveRegisterReadAfterWrite : Prop :=
  ∀ (m : Memory) (a b : Nat) (v : Byte), Memory.wf m →
    Memory.read (Memory.write m a v) b = if b = a then v else Memory.read m b

/-- A Bus that withholds holds the Host (R145): whatever the other agents do, and for as long as it goes on, the Host is not
released, the completion bit stays clear, and nothing is put on the bus, issued or taken. -/
def Obligations.WithheldBusHoldsHost : Prop :=
  ∀ (n : Nat) (s : State) (k : WaitKind),
    s.slave = none → s.busy = some k → s.i2c.done = false → n ≤ s.turns.length →
    (∀ x ∈ s.turns, ∀ a d, x ≠ .engine (.answer a d)) →
    ∃ t, Sys2Proof.core.run n s = .next t ∧ t.busy = some k ∧ t.i2c = s.i2c ∧ t.trace = s.trace ∧
      t.words = s.words ∧ t.bytes = s.bytes ∧ t.completions = s.completions ∧ t.cmdOut = s.cmdOut

/-- With a responsive Bus every blocking operation completes (R145): from every state of the invariant in which the Host
waits, once the Bus has answered the engine twice (a stop that was pending may take the first answer) and the Handler and the
Host have had a turn after that, the Host has been released with one completion, whatever the other turns are. -/
def Obligations.ResponsiveBusReleasesHost : Prop :=
  ∀ (s : State) (before between after rest : List Turn) (k k' : Ack) (d d' : Byte), Inv s → s.busy ≠ none →
    s.turns = before ++ .engine (.answer k d) :: (between ++ .engine (.answer k' d') :: (after ++ .handler :: .host :: rest)) →
    ∃ m t ret, m ≤ before.length + between.length + after.length + 4 ∧ Sys2Proof.core.run m s = .next t ∧
      t.busy = none ∧ t.completions = s.completions ++ [ret]

/-- A not-acknowledge changes nothing but the status code (R146): the two answers to one byte give states that differ only in
the last event of the trace, which records the answer, and in the status code, which is the one of the byte's kind and the
answer; and the same operations are legal after either. -/
def Obligations.NotAcknowledgeChangesOnlyStatus : Prop :=
  ∀ (s : State) (d : Byte), s.i2c.cmd = .tx → s.i2c.stopPend = false → s.slave = none →
    ∃ t u, agentStep (.engine (.answer .ack d)) s = .next t ∧ agentStep (.engine (.answer .nack d)) s = .next u ∧
      t.trace = s.trace ++ [.w s.i2c.dr .ack] ∧ u.trace = s.trace ++ [.w s.i2c.dr .nack] ∧
      t.i2c.srCode = codeOf (txStatus s.params.st s.i2c.txkind .ack) ∧
      u = { t with
        trace := s.trace ++ [.w s.i2c.dr .nack],
        i2c := { t.i2c with srCode := codeOf (txStatus s.params.st s.i2c.txkind .nack) } } ∧
      ∀ (i : Instr) (r : Refusal), exec i t = .refused r ↔ exec i u = .refused r

/-! ### The transactions of 42_i2c_transactions.md on the bus -/

/-- The register write (R161), in the interleaving with an eager engine: one start, three writes and one stop, in that
order, with whatever answers the Bus gives and no slave attached; against a reference slave at that address the byte is
stored and the pointer moves on, and against one at another address the three bytes are not acknowledged and nothing is
stored. In each case all five operations complete and the bus is free again. -/
def Obligations.RegisterWriteTransaction : Prop :=
  ∀ (s : State) (dev : DevAddr) (reg data : Byte) (ws : List OpWord) (rest : List Turn), BusFree s →
    (∀ (a₁ a₂ a₃ k₀ k₁ : Ack) (d₀ d₁ d₂ d₃ d₄ : Byte), s.slave = none →
      ∃ t, Sys2Proof.core.run 14 { s with
          words := opWords (regwr dev reg data) ++ ws,
          turns := eagerTurns [.answer k₀ d₀, .answer a₁ d₁, .answer a₂ d₂, .answer a₃ d₃] (.answer k₁ d₄) ++ rest } =
            .next t ∧
        t.trace = s.trace ++ [.s, .w (addrW dev) a₁, .w reg a₂, .w data a₃, .p] ∧
        t.completions = s.completions ++ [none, none, none, none, none] ∧ BusFree t ∧ t.words = ws) ∧
    (∀ (v : RefSlave) (as : List BusAnswer) (a : BusAnswer), s.slave = some v → as.length = 4 →
      ∃ t, Sys2Proof.core.run 14 { s with
          words := opWords (regwr dev reg data) ++ ws, turns := eagerTurns as a ++ rest } = .next t ∧
        t.completions = s.completions ++ [none, none, none, none, none] ∧ BusFree t ∧ t.words = ws ∧
        (v.addr = dev → t.trace = s.trace ++ [.s, .w (addrW dev) .ack, .w reg .ack, .w data .ack, .p] ∧
          ∃ u, t.slave = some u ∧ u.addr = dev ∧ u.regs = v.regs.write reg.toNat data ∧ u.ptr = reg + 1) ∧
        (v.addr ≠ dev → t.trace = s.trace ++ [.s, .w (addrW dev) .nack, .w reg .nack, .w data .nack, .p] ∧
          ∃ u, t.slave = some u ∧ u.addr = v.addr ∧ u.regs = v.regs ∧ u.ptr = v.ptr))

/-- The register read and the burst read (R162, R163), in the interleaving with an eager engine: the write phase with the
register address, a repeated start, the read address, every byte acknowledged but the last, one stop. With no slave attached
the bytes of the Bus are the results, in order; a reference slave at that address supplies its registers from `reg` on, its
pointer wrapping modulo 256, and is left pointing past the last byte read, its registers as they were; one at another address
acknowledges nothing, every byte reads 0xFF, and the transaction completes all the same. -/
def Obligations.BurstReadTransaction : Prop :=
  ∀ (s : State) (dev : DevAddr) (reg : Byte) (ws : List OpWord) (rest : List Turn), BusFree s →
    regrd dev reg = burstrd dev reg 1 ∧
    (∀ (acked : List Byte) (last : Byte) (a₁ a₂ a₃ : Ack), s.slave = none →
      ∃ t, Sys2Proof.core.run (3 * acked.length + 20) { s with
          words := opWords (burstrd dev reg (acked.length + 1)) ++ ws,
          turns := eagerTurns ([.answer .ack 0, .answer a₁ 0, .answer a₂ 0, .answer .ack 0, .answer a₃ 0] ++
            acked.map (.answer .ack ·) ++ [.answer .ack last]) (.answer .ack 0) ++ rest } = .next t ∧
        t.trace = s.trace ++ [.s, .w (addrW dev) a₁, .w reg a₂, .sr, .w (addrR dev) a₃] ++ readPart acked last ++ [.p] ∧
        t.completions = s.completions ++ [none, none, none, none, none] ++ acked.map some ++ [some last, none] ∧
        BusFree t ∧ t.words = ws) ∧
    (∀ (v : RefSlave) (n : Nat) (as : List BusAnswer) (a : BusAnswer), s.slave = some v → as.length = n + 6 →
      ∃ t, Sys2Proof.core.run (3 * n + 20) { s with
          words := opWords (burstrd dev reg (n + 1)) ++ ws, turns := eagerTurns as a ++ rest } = .next t ∧
        BusFree t ∧ t.words = ws ∧
        (v.addr = dev →
          t.trace = s.trace ++ [.s, .w (addrW dev) .ack, .w reg .ack, .sr, .w (addrR dev) .ack] ++
            readPart ((List.range n).map fun i => v.regs.read ((reg.toNat + i) % 256))
              (v.regs.read ((reg.toNat + n) % 256)) ++ [.p] ∧
          t.completions = s.completions ++ [none, none, none, none, none] ++
            ((List.range (n + 1)).map fun i => some (v.regs.read ((reg.toNat + i) % 256))) ++ [none] ∧
          ∃ u, t.slave = some u ∧ u.addr = dev ∧ u.regs = v.regs ∧ u.ptr = reg + BitVec.ofNat 8 (n + 1)) ∧
        (v.addr ≠ dev →
          t.trace = s.trace ++ [.s, .w (addrW dev) .nack, .w reg .nack, .sr, .w (addrR dev) .nack] ++
            readPart (List.replicate n 0xFF) 0xFF ++ [.p] ∧
          t.completions = s.completions ++ [none, none, none, none, none] ++ List.replicate (n + 1) (some 0xFF) ++ [none] ∧
          ∃ u, t.slave = some u ∧ u.addr = v.addr ∧ u.regs = v.regs ∧ u.ptr = v.ptr))

/-! ### Invariants -/

/-- Every step of every agent keeps the invariant of the block (R52, R148), and leaves the parameters as they are. -/
def Obligations.InvariantKeptByEveryStep : Prop :=
  ∀ s t : State, Inv s → step s = .next t → Inv t ∧ t.params = s.params

/-- The invariant holds after reset, for every choice of the OPEN parameters. -/
def Obligations.InvariantHoldsAtReset : Prop :=
  Inv State.reset ∧ ∀ p : Params, Inv (State.resetWith p)

/-- The numbered invariants of R52 follow from the inductive one, item by item. -/
def Obligations.NumberedInvariants : Prop :=
  ∀ s : State, Inv s →
    (s.pwm.cfg = true → s.pwm.mode = .fastNonInv ∧ s.pwm.oe = true ∧ s.pwm.top = s.params.pwmTop ∧
      s.pwm.cmpBuf ≤ s.pwm.top ∧ s.pwm.cmpAct ≤ s.pwm.top ∧ s.pwm.cnt ≤ s.pwm.top) ∧
    (s.pwm.cfg = false → s.pwmOut = .z) ∧
    s.tick.count.toNat ≤ 99 ∧
    (∀ k, s.busy = some k → s.i2c.done = true ∨ s.i2c.cmd ≠ .none) ∧
    (s.i2c.cmd = .tx ∨ s.i2c.cmd = .rx → s.i2c.stopPend = false) ∧
    (s.i2c.phase = .idle ∨ s.i2c.phase = .started ↔ s.i2c.dev = none) ∧
    (s.tick.run = false → s.tick.pend = false ∧ s.tick.count = 0 ∧ s.tick.flag = false)

/-- The shape of the trace (R148): in every state of the invariant, and in every state that a step of any agent leads to
from one, the bus trace is a prefix of a sequence of transactions, each of one of the two forms. -/
def Obligations.TraceIsPrefixOfTransactions : Prop :=
  ∀ s : State, Inv s → TraceShape s.trace ∧ ∀ t, step s = .next t → TraceShape t.trace

/-- The phase moves only by the table of R121: each change of it in a step is one of the table's entries, made by the issue
of the operation of that column. -/
def Obligations.PhaseMovesByTheTable : Prop :=
  ∀ s t : State, step s = .next t → t.i2c.phase ≠ s.i2c.phase → s.i2c.en = true ∧
    ((Issues s .i2cStart ∧ s.i2c.phase = .idle ∧ t.i2c.phase = .started) ∨
     (Issues s .i2cStart ∧ s.i2c.phase = .mt ∧ t.i2c.phase = .repStarted) ∨
     (∃ b, Issues s (.i2cWrite b) ∧ s.i2c.phase = .started ∧ b.getLsbD 0 = false ∧ t.i2c.phase = .mt ∧
       t.i2c.dev = some (b.extractLsb' 1 7)) ∨
     (∃ b, Issues s (.i2cWrite b) ∧ s.i2c.phase = .started ∧ b.getLsbD 0 = true ∧ t.i2c.phase = .mr ∧
       t.i2c.dev = some (b.extractLsb' 1 7)) ∨
     (∃ b, Issues s (.i2cWrite b) ∧ s.i2c.phase = .repStarted ∧ b.getLsbD 0 = true ∧
       s.i2c.dev = some (b.extractLsb' 1 7) ∧ t.i2c.phase = .mr) ∨
     (Issues s .i2cReadnack ∧ s.i2c.phase = .mr ∧ t.i2c.phase = .mrLast) ∨
     (Issues s .i2cStop ∧ (s.i2c.phase = .mt ∨ s.i2c.phase = .mrLast) ∧ t.i2c.phase = .idle))

/-! ### The periodic tick source and the interrupt mask -/

/-- TICK.INIT (R181). -/
def Obligations.TickInitResult : Prop :=
  decodeOp16 0x3000 = .op .tickInit ∧
  ∀ s : State,
    (s.tick.run = false → exec .tickInit s = .next { s with
      tick := { s.tick with run := true }, completions := s.completions ++ [none] }) ∧
    (s.tick.run = true → exec .tickInit s = .refused .tickReinit)

/-- TICK.RDFLAG (R182), TICK.CLRFLAG (R183) and TICK.TAKE (R185), in every state. -/
def Obligations.TickFlagOperations : Prop :=
  decodeOp16 0x3100 = .op .tickRdflag ∧ decodeOp16 0x3200 = .op .tickClrflag ∧ decodeOp16 0x3400 = .op .tickTake ∧
  ∀ s : State,
    exec .tickRdflag s = .next { s with
      completions := s.completions ++ [some (if s.tick.flag = true then 0x01 else 0x00)] } ∧
    exec .tickClrflag s = .next { s with
      tick := { s.tick with flag := false }, completions := s.completions ++ [none] } ∧
    exec .tickTake s = .next { s with
      tick := { s.tick with flag := false },
      completions := s.completions ++ [some (if s.tick.flag = true then 0x01 else 0x00)] }

/-- TICK.RDCNT (R184): the count, below 100 in every state of the invariant. -/
def Obligations.TickRdcntResult : Prop :=
  decodeOp16 0x3300 = .op .tickRdcnt ∧
  ∀ s : State,
    exec .tickRdcnt s = .next { s with completions := s.completions ++ [some s.tick.count] } ∧
    (Inv s → s.tick.count.toNat < 100)

/-- IRQ.ENABLE (R215) and IRQ.DISABLE (R216), in every state; neither touches anything but the mask (R217); a pending event
is due at once after the first, and none is after the second. -/
def Obligations.IrqMaskOperations : Prop :=
  decodeOp16 0x4000 = .op .irqEnable ∧ decodeOp16 0x4100 = .op .irqDisable ∧
  ∀ s : State,
    exec .irqEnable s = .next { s with gie := true, completions := s.completions ++ [none] } ∧
    exec .irqDisable s = .next { s with gie := false, completions := s.completions ++ [none] } ∧
    (s.tick.pend = true → handlerDue { s with gie := true, completions := s.completions ++ [none] } = true) ∧
    handlerDue { s with gie := false, completions := s.completions ++ [none] } = false

/-- TickTimer (R187): a compare event becomes pending, merging with one that is; not before TICK.INIT. -/
def Obligations.TickTimerEvent : Prop :=
  ∀ s : State,
    (s.tick.run = true → handlerDue s = false →
      agentStep .tickTimer s = .next { s with tick := { s.tick with pend := true } }) ∧
    (s.tick.run = false → agentStep .tickTimer s = .next s)

/-- Handler (R188): the pending bit is taken, the count moves by one, and on reaching 100 the flag is set and the count
returns to 0; not enabled while nothing is pending or the mask is closed. The premise on the count is the range of R49,
which the invariant keeps. -/
def Obligations.HandlerRun : Prop :=
  ∀ s : State,
    (s.tick.pend = true → s.gie = true → s.tick.count.toNat + 1 = 100 →
      agentStep .handler s = .next { s with tick := { s.tick with pend := false, flag := true, count := 0 } }) ∧
    (s.tick.pend = true → s.gie = true → s.tick.count.toNat ≤ 99 → s.tick.count.toNat + 1 ≠ 100 →
      agentStep .handler s = .next { s with
        tick := { s.tick with pend := false, count := BitVec.ofNat 8 (s.tick.count.toNat + 1) } }) ∧
    (s.tick.pend = false ∨ s.gie = false → agentStep .handler s = .next s)

/-- When the handler runs (R189): while an event is pending and interrupts are enabled, no Host, Dispatcher or TickTimer
step is enabled; the PwmTimer and the engine are not constrained. -/
def Obligations.HandlerGoesFirst : Prop :=
  ∀ s : State, s.tick.pend = true → s.gie = true →
    agentStep .host s = .next s ∧ agentStep .dispatcher s = .next s ∧ agentStep .tickTimer s = .next s ∧
    (s.pwm.cfg = true → s.pwm.cnt = s.pwm.top →
      agentStep .pwmTimer s = .next { s with pwm := { s.pwm with cnt := 0, cmpAct := s.pwm.cmpBuf } }) ∧
    (s.i2c.stopPend = true → s.slave = none → ∀ k d, agentStep (.engine (.answer k d)) s = .next { s with
      trace := s.trace ++ [.p],
      i2c := { s.i2c with stopPend := false, srCode := s.params.st.idle.extractLsb' 3 5 } })

/-- The 100-tick cycle (R190): with interrupts enabled, `n` events handled one by one move the count by `n` modulo 100, and
the flag is set exactly when a hundredth tick falls among them. -/
def Obligations.HundredTickCycle : Prop :=
  ∀ (n : Nat) (s : State) (rest : List Turn),
    s.gie = true → s.tick.run = true → s.tick.pend = false → s.tick.count.toNat ≤ 99 →
    Sys2Proof.core.run (2 * n) { s with turns := (List.replicate n [Turn.tickTimer, Turn.handler]).flatten ++ rest } =
      .next { s with
        turns := rest,
        tick := { s.tick with
          count := BitVec.ofNat 8 ((s.tick.count.toNat + n) % 100),
          flag := s.tick.flag || decide (100 ≤ s.tick.count.toNat + n) } }

/-- Masked interrupts (R191): while the mask is closed any number of events leave one pending and the count and the flag as
they are; once it is open, one Handler run counts one tick for all of them. -/
def Obligations.MaskedTicksMerge : Prop :=
  ∀ (ts : List Turn) (s : State) (rest : List Turn),
    s.gie = false → s.tick.run = true → (∀ x ∈ ts, x = .tickTimer ∨ x = .handler) → Turn.tickTimer ∈ ts →
    s.tick.count.toNat < 99 →
    Sys2Proof.core.run ts.length { s with turns := ts ++ rest } =
      .next { s with turns := rest, tick := { s.tick with pend := true } } ∧
    agentStep .handler { s with gie := true, tick := { s.tick with pend := true } } =
      .next { s with gie := true, tick := { s.tick with pend := false, count := s.tick.count + 1 } }

/-- The read-then-clear race (R193): with the flag set, a read, a whole cycle of a hundred ticks, and a clear lose the second
cycle; with TICK.TAKE in place of the pair both cycles are seen. -/
def Obligations.ReadThenClearLosesACycle : Prop :=
  ∀ (s : State) (ws : List OpWord) (rest : List Turn),
    s.gie = true → s.tick.run = true → s.tick.pend = false → s.tick.flag = true → s.tick.count.toNat ≤ 99 →
    s.busy = none → s.halted = false →
    (∃ t, Sys2Proof.core.run 203 { s with
        words := 0x3100 :: 0x3200 :: 0x3100 :: ws,
        turns := .host :: ((List.replicate 100 [Turn.tickTimer, Turn.handler]).flatten ++ .host :: .host :: rest) } =
          .next t ∧
      t.completions = s.completions ++ [some 0x01, none, some 0x00] ∧ t.tick = { s.tick with flag := false }) ∧
    (∃ t, Sys2Proof.core.run 202 { s with
        words := 0x3400 :: 0x3400 :: ws,
        turns := .host :: ((List.replicate 100 [Turn.tickTimer, Turn.handler]).flatten ++ .host :: rest) } = .next t ∧
      t.completions = s.completions ++ [some 0x01, some 0x01] ∧ t.tick = { s.tick with flag := false })

/-! ### The command dispatcher -/

/-- The four commands (R201 to R204): the compare value and level of the duty, then the acknowledgement; refused before
configuration, with no acknowledgement. -/
def Obligations.CommandResults : Prop :=
  decodeC8 0x77 = .command .cmdLow ∧ decodeC8 0x73 = .command .cmdMed ∧ decodeC8 0x57 = .command .cmdHigh ∧
  decodeC8 0x78 = .command .cmdOff ∧ decodeC8 0x58 = .command .cmdOff ∧ decodeC8 0x53 = .unrecognised 0x53 ∧
  ∀ s : State,
    (s.pwm.cfg = true →
      exec .cmdLow s = .next { s with
        pwm := { s.pwm with cmpBuf := BitVec.ofNat 8 (s.pwm.top.toNat * 25 / 100), level := .low },
        cmdOut := s.cmdOut ++ [.ack .low] } ∧
      exec .cmdMed s = .next { s with
        pwm := { s.pwm with cmpBuf := BitVec.ofNat 8 (s.pwm.top.toNat * 50 / 100), level := .medium },
        cmdOut := s.cmdOut ++ [.ack .medium] } ∧
      exec .cmdHigh s = .next { s with
        pwm := { s.pwm with cmpBuf := BitVec.ofNat 8 (s.pwm.top.toNat * 80 / 100), level := .high },
        cmdOut := s.cmdOut ++ [.ack .high] } ∧
      exec .cmdOff s = .next { s with
        pwm := { s.pwm with cmpBuf := 0, level := .off }, cmdOut := s.cmdOut ++ [.ack .off] }) ∧
    (s.pwm.cfg = false →
      exec .cmdLow s = .refused .pwmNotConfigured ∧ exec .cmdMed s = .refused .pwmNotConfigured ∧
      exec .cmdHigh s = .refused .pwmNotConfigured ∧ exec .cmdOff s = .refused .pwmNotConfigured)

/-- The sequence property (R208): from a configured PWM unit, the bytes `w s W x q` give the levels Low, Medium, High, Off,
Off, four acknowledgements and one unrecognised notification. -/
def Obligations.DispatcherSequence : Prop :=
  ∀ s : State, s.pwm.cfg = true →
    ∃ s1 s2 s3 s4 s5,
      dispatchByte 0x77 s = .next s1 ∧ s1.pwm.level = .low ∧
      dispatchByte 0x73 s1 = .next s2 ∧ s2.pwm.level = .medium ∧
      dispatchByte 0x57 s2 = .next s3 ∧ s3.pwm.level = .high ∧
      dispatchByte 0x78 s3 = .next s4 ∧ s4.pwm.level = .off ∧
      dispatchByte 0x71 s4 = .next s5 ∧ s5 = { s4 with cmdOut := s4.cmdOut ++ [.unrec 0x71] } ∧
      s5.cmdOut = s.cmdOut ++ [.ack .low, .ack .medium, .ack .high, .ack .off, .unrec 0x71]

/-! ### Rules about the whole machine -/

/-- Who writes the flags and the count (R22, R49): each change a step makes to one of them is made by the agent, or by the
operation, that the table of R22 names for it. -/
def Obligations.FlagWritersAreTheTable : Prop :=
  ∀ s t : State, step s = .next t →
    (s.tick.flag = false → t.tick.flag = true →
      s.turn = .handler ∧ handlerDue s = true ∧ s.tick.count + 1 = 100) ∧
    (s.tick.flag = true → t.tick.flag = false → Issues s .tickClrflag ∨ Issues s .tickTake) ∧
    (s.i2c.done = false → t.i2c.done = true →
      (∃ a, s.turn = .engine a) ∧ (s.i2c.cmd = .start ∨ s.i2c.cmd = .tx ∨ s.i2c.cmd = .rx)) ∧
    (s.i2c.done = true → t.i2c.done = false →
      Issues s .i2cStart ∨ (∃ b, Issues s (.i2cWrite b)) ∨ Issues s .i2cReadack ∨ Issues s .i2cReadnack ∨
        Issues s .i2cStop) ∧
    (s.tick.pend = false → t.tick.pend = true → s.turn = .tickTimer) ∧
    (s.tick.pend = true → t.tick.pend = false → s.turn = .handler) ∧
    (t.tick.count ≠ s.tick.count → s.turn = .handler ∧ handlerDue s = true)

/-- The interrupt mask is written by IRQ.ENABLE and IRQ.DISABLE alone (R23); no handler run changes it (R238). -/
def Obligations.MaskWrittenOnlyByIrq : Prop :=
  ∀ s t : State, step s = .next t → t.gie ≠ s.gie →
    (t.gie = true ∧ Issues s .irqEnable) ∨ (t.gie = false ∧ Issues s .irqDisable)

/-- What is never cleared once set: `pwm.cfg` (R25), `i2c.en` (R34), `tick.run` (R47); and the top value never changes after
configuration (R28, R111). And HALT (R246), held as the model's own flag (DESIGN CHOICE, notes/assumptions/25.md): setting it
changes nothing of the block; no step ends it; in every halted state, whether the Host waits or not, no operation is issued
and no byte is taken, so the duty, the phase and the mask stay as they are; with the port free (`host.busy` is none) nothing
completes either, and a Host that was halted while it waits may still complete the one operation it waits for; and every
agent but the Host and the Dispatcher steps exactly as it does without the flag. -/
def Obligations.EnablesAreNeverCleared : Prop :=
  ∀ s t : State, step s = .next t →
    (s.pwm.cfg = true → t.pwm.cfg = true ∧ t.pwm.top = s.pwm.top ∧ t.pwm.oe = s.pwm.oe ∧ t.pwm.mode = s.pwm.mode) ∧
    (s.i2c.en = true → t.i2c.en = true ∧ t.i2c.div = s.i2c.div) ∧
    (s.tick.run = true → t.tick.run = true) ∧
    s.halt = { s with halted := true } ∧
    (s.halted = true → t.halted = true ∧ t.gie = s.gie ∧ t.words = s.words ∧ t.bytes = s.bytes ∧ t.cmdOut = s.cmdOut ∧
      t.pwm.cmpBuf = s.pwm.cmpBuf ∧ t.pwm.level = s.pwm.level ∧ t.i2c.phase = s.i2c.phase ∧
      (s.busy = none → t.busy = none ∧ t.completions = s.completions) ∧
      (∀ k, s.busy = some k → (t.busy = some k ∧ t.completions = s.completions) ∨
        (s.i2c.done = true ∧ t.busy = none ∧ t.completions = s.completions ++ [completionRet s.i2c k]))) ∧
    (∀ x : Turn, x ≠ .host → x ≠ .dispatcher → agentStep x s.halt = andThen (agentStep x s) State.halt)

/-- The units are independent (R2): no operation and no agent of one unit writes the state of another, but for the commands,
which write the PWM unit. -/
def Obligations.UnitsAreIndependent : Prop :=
  (∀ (i : Instr) (s t : State), exec i s = .next t →
    (t.pwm ≠ s.pwm → i = .pwmConfigure ∨ (∃ l, i = .pwmSetduty l) ∨ i = .cmdLow ∨ i = .cmdMed ∨ i = .cmdHigh ∨
      i = .cmdOff) ∧
    (t.i2c ≠ s.i2c → i = .i2cInit ∨ i = .i2cStart ∨ i = .i2cStop ∨ (∃ b, i = .i2cWrite b) ∨ i = .i2cReadack ∨
      i = .i2cReadnack) ∧
    (t.tick ≠ s.tick → i = .tickInit ∨ i = .tickClrflag ∨ i = .tickTake) ∧
    (t.gie ≠ s.gie → i = .irqEnable ∨ i = .irqDisable) ∧
    t.trace = s.trace ∧ t.slave = s.slave) ∧
  (∀ (s : State) (a : BusAnswer),
    takeInterrupt s = { s with tick := (takeInterrupt s).tick } ∧
    tickTimerStep s = { s with tick := (tickTimerStep s).tick } ∧
    pwmTimerStep s = { s with pwm := (pwmTimerStep s).pwm } ∧
    engineTurn a s = { s with i2c := (engineTurn a s).i2c, trace := (engineTurn a s).trace,
                              slave := (engineTurn a s).slave })

/-! ### Reset -/

/-- The values the spec gives for reset (R260), the unspecified fields left out. -/
def Obligations.ResetValues : Prop :=
  ∀ p : Params, (State.resetWith p).gie = false ∧ (State.resetWith p).busy = none ∧
    (State.resetWith p).pwm.cfg = false ∧ (State.resetWith p).pwm.mode = .disconnected ∧
    (State.resetWith p).pwm.oe = false ∧ (State.resetWith p).pwmOut = .z ∧
    (State.resetWith p).i2c.en = false ∧ (State.resetWith p).i2c.srCode = p.st.idle.extractLsb' 3 5 ∧
    (State.resetWith p).i2c.done = false ∧ (State.resetWith p).i2c.ackEn = false ∧
    (State.resetWith p).i2c.cmd = .none ∧ (State.resetWith p).i2c.stopPend = false ∧
    (State.resetWith p).i2c.phase = .idle ∧ (State.resetWith p).i2c.dev = none ∧ (State.resetWith p).trace = [] ∧
    (State.resetWith p).tick = { run := false, pend := false, count := 0, flag := false } ∧
    (State.resetWith p).cmdOut = [] ∧ State.reset = State.resetWith Params.default

/-- After reset the block is quiescent (R261): no agent but the Host and the Dispatcher has an enabled step, and interrupts
are masked. -/
def Obligations.ResetIsQuiescent : Prop :=
  ∀ (p : Params) (x : Turn), x ≠ .host → x ≠ .dispatcher →
    agentStep x (State.resetWith p) = .next (State.resetWith p) ∧ (State.resetWith p).gie = false

/-- No rule reads a field that the spec leaves unspecified before a rule writes it (R260, R36, R37, R41): two states that
are equal but for such fields step to outcomes that are again equal but for such fields, with the same refusals, the same
results and the same pin; and the state after reset is such a pair with itself whatever those fields hold. -/
def Obligations.UnspecifiedFieldsAreNeverRead : Prop :=
  (∀ s t : State, SameSpecified s t → SameOutcome (step s) (step t) ∧ s.pwmOut = t.pwmOut) ∧
  (∀ (p : Params) (top cmpBuf cmpAct cnt div dr : Byte) (level : DutyLevel) (low : BitVec 3) (kind : TxKind),
    SameSpecified (State.resetWith p) { State.resetWith p with
      pwm := { (State.resetWith p).pwm with
        top := top, cmpBuf := cmpBuf, cmpAct := cmpAct, cnt := cnt, level := level },
      i2c := { (State.resetWith p).i2c with div := div, dr := dr, srLow := low, txkind := kind } })

/-! ### Values assembled by the host -/

/-- The axis value (R169): the pattern `high ++ low` as a signed 16-bit number, and its corner cases. -/
def Obligations.AxisAssembly : Prop :=
  (∀ high low : Byte, int16 high low =
    if high.toNat * 256 + low.toNat < 32768 then (high.toNat * 256 + low.toNat : Int)
    else (high.toNat * 256 + low.toNat : Int) - 65536) ∧
  (∀ high low : Byte, -32768 ≤ int16 high low ∧ int16 high low ≤ 32767 ∧ (0x80 ≤ high → int16 high low < 0)) ∧
  int16 0x00 0x00 = 0 ∧ int16 0x7F 0xFF = 32767 ∧ int16 0x80 0x00 = -32768 ∧ int16 0xFF 0xFF = -1 ∧
  int16 0xFE 0x0C = -500
end

