-- ==== Sys2Proof/Laws/Memory.lean ====
section
/-! SUPPORT. Every operation on a device's registers keeps the canonical form (20_memory.md R65, R66). -/

namespace Sys2Proof.Machine

theorem Memory.wf_nil : Memory.wf [] := by simp [Memory.wf]

theorem Memory.wf_tail {c : Host.Cell} {m : Memory} (h : Memory.wf (c :: m)) : Memory.wf m :=
  ⟨(List.pairwise_cons.mp h.1).2, fun d hd => h.2 d (List.mem_cons_of_mem c hd)⟩

theorem Memory.wf_cons {c : Host.Cell} {m : Memory} (hm : Memory.wf m) (hlt : ∀ d ∈ m, c.1 < d.1)
    (hc : c.1 < 256 ∧ c.2 ≠ blankByte) : Memory.wf (c :: m) := by
  refine ⟨List.pairwise_cons.mpr ⟨?_, hm.1⟩, ?_⟩
  · intro a ha
    obtain ⟨d, hd, rfl⟩ := List.mem_map.mp ha
    exact hlt d hd
  · intro d hd
    rcases List.mem_cons.mp hd with rfl | hd
    · exact hc
    · exact hm.2 d hd

/-- The head's address is below every other. -/
theorem Memory.wf_head_lt {c : Host.Cell} {m : Memory} (h : Memory.wf (c :: m)) : ∀ d ∈ m, c.1 < d.1 :=
  fun d hd => (List.pairwise_cons.mp h.1).1 d.1 (List.mem_map_of_mem hd)

/-- An entry after a write is the one written or one that was there. -/
theorem Memory.mem_write {m : Memory} {a : Nat} {v : Byte} {d : Host.Cell} (hd : d ∈ Memory.write m a v) :
    d = (a, v) ∨ d ∈ m := by
  induction m with
  | nil =>
    simp only [Memory.write] at hd
    split at hd
    · cases hd
    · exact .inl (List.mem_singleton.mp hd)
  | cons c m ih =>
    obtain ⟨b, w⟩ := c
    simp only [Memory.write] at hd
    split at hd
    · split at hd
      · exact .inr hd
      · exact (List.mem_cons.mp hd).imp id id
    · split at hd
      · split at hd
        · exact .inr (List.mem_cons_of_mem _ hd)
        · exact (List.mem_cons.mp hd).imp id (List.mem_cons_of_mem _)
      · rcases List.mem_cons.mp hd with rfl | hd
        · exact .inr List.mem_cons_self
        · exact (ih hd).imp id (List.mem_cons_of_mem _)

/-- A write of a register of the device keeps the canonical form. -/
theorem Memory.write_wf {m : Memory} {a : Nat} {v : Byte} (h : Memory.wf m) (ha : a < 256) :
    Memory.wf (Memory.write m a v) := by
  induction m with
  | nil =>
    simp only [Memory.write]
    split
    · exact Memory.wf_nil
    · next hv => exact Memory.wf_cons Memory.wf_nil (by simp) ⟨ha, hv⟩
  | cons c m ih =>
    obtain ⟨b, w⟩ := c
    have hm := Memory.wf_tail h
    have hlt := Memory.wf_head_lt h
    have hc := h.2 (b, w) List.mem_cons_self
    simp only [Memory.write]
    split
    · next hab =>
      split
      · exact h
      · next hv =>
        refine Memory.wf_cons h ?_ ⟨ha, hv⟩
        intro d hd
        rcases List.mem_cons.mp hd with rfl | hd
        · exact hab
        · exact lt_trans hab (hlt d hd)
    · next hab =>
      split
      · next hEq =>
        subst hEq
        split
        · exact hm
        · next hv => exact Memory.wf_cons hm hlt ⟨ha, hv⟩
      · next hne =>
        refine Memory.wf_cons (ih hm) ?_ hc
        intro d hd
        rcases Memory.mem_write hd with rfl | hd
        · show b < a
          omega
        · exact hlt d hd

/-- A byte written to the slave keeps its registers in canonical form. -/
theorem slaveWrite_wf {v : RefSlave} (b : Byte) (h : v.regs.wf) : (slaveWrite v b).2.regs.wf := by
  unfold slaveWrite slaveAddress slaveData
  split
  · split <;> exact h
  · split
    · split
      · exact h
      · exact Memory.write_wf h v.ptr.isLt
    · exact h

/-- A read leaves the slave's registers as they are. -/
theorem slaveRead_regs (v : RefSlave) : (slaveRead v).2.regs = v.regs := by
  unfold slaveRead
  split <;> rfl

end Sys2Proof.Machine
end

