-- ==== Sys2Proof/Laws/State.lean ====
section
/-! SUPPORT. One lemma per field per update of the state (Machine/Ops.lean), each true by definition: what the update
writes, and every field it leaves unchanged. -/

namespace Sys2Proof.Machine

/-! ### setGie -/

@[simp] theorem State.setGie_gie (s : State) (b : Bool) : (s.setGie b).gie = b := rfl
@[simp] theorem State.setGie_busy (s : State) (b : Bool) : (s.setGie b).busy = s.busy := rfl
@[simp] theorem State.setGie_pwm (s : State) (b : Bool) : (s.setGie b).pwm = s.pwm := rfl
@[simp] theorem State.setGie_i2c (s : State) (b : Bool) : (s.setGie b).i2c = s.i2c := rfl
@[simp] theorem State.setGie_trace (s : State) (b : Bool) : (s.setGie b).trace = s.trace := rfl
@[simp] theorem State.setGie_tick (s : State) (b : Bool) : (s.setGie b).tick = s.tick := rfl
@[simp] theorem State.setGie_cmdOut (s : State) (b : Bool) : (s.setGie b).cmdOut = s.cmdOut := rfl
@[simp] theorem State.setGie_slave (s : State) (b : Bool) : (s.setGie b).slave = s.slave := rfl
@[simp] theorem State.setGie_params (s : State) (b : Bool) : (s.setGie b).params = s.params := rfl
@[simp] theorem State.setGie_words (s : State) (b : Bool) : (s.setGie b).words = s.words := rfl
@[simp] theorem State.setGie_bytes (s : State) (b : Bool) : (s.setGie b).bytes = s.bytes := rfl
@[simp] theorem State.setGie_halted (s : State) (b : Bool) : (s.setGie b).halted = s.halted := rfl
@[simp] theorem State.setGie_completions (s : State) (b : Bool) : (s.setGie b).completions = s.completions := rfl
@[simp] theorem State.setGie_turns (s : State) (b : Bool) : (s.setGie b).turns = s.turns := rfl
@[simp] theorem State.setGie_drawn (s : State) (b : Bool) : (s.setGie b).drawn = s.drawn := rfl

/-! ### setBusy -/

@[simp] theorem State.setBusy_gie (s : State) (b : Option WaitKind) : (s.setBusy b).gie = s.gie := rfl
@[simp] theorem State.setBusy_busy (s : State) (b : Option WaitKind) : (s.setBusy b).busy = b := rfl
@[simp] theorem State.setBusy_pwm (s : State) (b : Option WaitKind) : (s.setBusy b).pwm = s.pwm := rfl
@[simp] theorem State.setBusy_i2c (s : State) (b : Option WaitKind) : (s.setBusy b).i2c = s.i2c := rfl
@[simp] theorem State.setBusy_trace (s : State) (b : Option WaitKind) : (s.setBusy b).trace = s.trace := rfl
@[simp] theorem State.setBusy_tick (s : State) (b : Option WaitKind) : (s.setBusy b).tick = s.tick := rfl
@[simp] theorem State.setBusy_cmdOut (s : State) (b : Option WaitKind) : (s.setBusy b).cmdOut = s.cmdOut := rfl
@[simp] theorem State.setBusy_slave (s : State) (b : Option WaitKind) : (s.setBusy b).slave = s.slave := rfl
@[simp] theorem State.setBusy_params (s : State) (b : Option WaitKind) : (s.setBusy b).params = s.params := rfl
@[simp] theorem State.setBusy_words (s : State) (b : Option WaitKind) : (s.setBusy b).words = s.words := rfl
@[simp] theorem State.setBusy_bytes (s : State) (b : Option WaitKind) : (s.setBusy b).bytes = s.bytes := rfl
@[simp] theorem State.setBusy_halted (s : State) (b : Option WaitKind) : (s.setBusy b).halted = s.halted := rfl
@[simp] theorem State.setBusy_completions (s : State) (b : Option WaitKind) : (s.setBusy b).completions = s.completions := rfl
@[simp] theorem State.setBusy_turns (s : State) (b : Option WaitKind) : (s.setBusy b).turns = s.turns := rfl
@[simp] theorem State.setBusy_drawn (s : State) (b : Option WaitKind) : (s.setBusy b).drawn = s.drawn := rfl

/-! ### setPwm -/

@[simp] theorem State.setPwm_gie (s : State) (p : Pwm) : (s.setPwm p).gie = s.gie := rfl
@[simp] theorem State.setPwm_busy (s : State) (p : Pwm) : (s.setPwm p).busy = s.busy := rfl
@[simp] theorem State.setPwm_pwm (s : State) (p : Pwm) : (s.setPwm p).pwm = p := rfl
@[simp] theorem State.setPwm_i2c (s : State) (p : Pwm) : (s.setPwm p).i2c = s.i2c := rfl
@[simp] theorem State.setPwm_trace (s : State) (p : Pwm) : (s.setPwm p).trace = s.trace := rfl
@[simp] theorem State.setPwm_tick (s : State) (p : Pwm) : (s.setPwm p).tick = s.tick := rfl
@[simp] theorem State.setPwm_cmdOut (s : State) (p : Pwm) : (s.setPwm p).cmdOut = s.cmdOut := rfl
@[simp] theorem State.setPwm_slave (s : State) (p : Pwm) : (s.setPwm p).slave = s.slave := rfl
@[simp] theorem State.setPwm_params (s : State) (p : Pwm) : (s.setPwm p).params = s.params := rfl
@[simp] theorem State.setPwm_words (s : State) (p : Pwm) : (s.setPwm p).words = s.words := rfl
@[simp] theorem State.setPwm_bytes (s : State) (p : Pwm) : (s.setPwm p).bytes = s.bytes := rfl
@[simp] theorem State.setPwm_halted (s : State) (p : Pwm) : (s.setPwm p).halted = s.halted := rfl
@[simp] theorem State.setPwm_completions (s : State) (p : Pwm) : (s.setPwm p).completions = s.completions := rfl
@[simp] theorem State.setPwm_turns (s : State) (p : Pwm) : (s.setPwm p).turns = s.turns := rfl
@[simp] theorem State.setPwm_drawn (s : State) (p : Pwm) : (s.setPwm p).drawn = s.drawn := rfl

/-! ### setI2c -/

@[simp] theorem State.setI2c_gie (s : State) (i : I2c) : (s.setI2c i).gie = s.gie := rfl
@[simp] theorem State.setI2c_busy (s : State) (i : I2c) : (s.setI2c i).busy = s.busy := rfl
@[simp] theorem State.setI2c_pwm (s : State) (i : I2c) : (s.setI2c i).pwm = s.pwm := rfl
@[simp] theorem State.setI2c_i2c (s : State) (i : I2c) : (s.setI2c i).i2c = i := rfl
@[simp] theorem State.setI2c_trace (s : State) (i : I2c) : (s.setI2c i).trace = s.trace := rfl
@[simp] theorem State.setI2c_tick (s : State) (i : I2c) : (s.setI2c i).tick = s.tick := rfl
@[simp] theorem State.setI2c_cmdOut (s : State) (i : I2c) : (s.setI2c i).cmdOut = s.cmdOut := rfl
@[simp] theorem State.setI2c_slave (s : State) (i : I2c) : (s.setI2c i).slave = s.slave := rfl
@[simp] theorem State.setI2c_params (s : State) (i : I2c) : (s.setI2c i).params = s.params := rfl
@[simp] theorem State.setI2c_words (s : State) (i : I2c) : (s.setI2c i).words = s.words := rfl
@[simp] theorem State.setI2c_bytes (s : State) (i : I2c) : (s.setI2c i).bytes = s.bytes := rfl
@[simp] theorem State.setI2c_halted (s : State) (i : I2c) : (s.setI2c i).halted = s.halted := rfl
@[simp] theorem State.setI2c_completions (s : State) (i : I2c) : (s.setI2c i).completions = s.completions := rfl
@[simp] theorem State.setI2c_turns (s : State) (i : I2c) : (s.setI2c i).turns = s.turns := rfl
@[simp] theorem State.setI2c_drawn (s : State) (i : I2c) : (s.setI2c i).drawn = s.drawn := rfl

/-! ### setTick -/

@[simp] theorem State.setTick_gie (s : State) (t : Tick) : (s.setTick t).gie = s.gie := rfl
@[simp] theorem State.setTick_busy (s : State) (t : Tick) : (s.setTick t).busy = s.busy := rfl
@[simp] theorem State.setTick_pwm (s : State) (t : Tick) : (s.setTick t).pwm = s.pwm := rfl
@[simp] theorem State.setTick_i2c (s : State) (t : Tick) : (s.setTick t).i2c = s.i2c := rfl
@[simp] theorem State.setTick_trace (s : State) (t : Tick) : (s.setTick t).trace = s.trace := rfl
@[simp] theorem State.setTick_tick (s : State) (t : Tick) : (s.setTick t).tick = t := rfl
@[simp] theorem State.setTick_cmdOut (s : State) (t : Tick) : (s.setTick t).cmdOut = s.cmdOut := rfl
@[simp] theorem State.setTick_slave (s : State) (t : Tick) : (s.setTick t).slave = s.slave := rfl
@[simp] theorem State.setTick_params (s : State) (t : Tick) : (s.setTick t).params = s.params := rfl
@[simp] theorem State.setTick_words (s : State) (t : Tick) : (s.setTick t).words = s.words := rfl
@[simp] theorem State.setTick_bytes (s : State) (t : Tick) : (s.setTick t).bytes = s.bytes := rfl
@[simp] theorem State.setTick_halted (s : State) (t : Tick) : (s.setTick t).halted = s.halted := rfl
@[simp] theorem State.setTick_completions (s : State) (t : Tick) : (s.setTick t).completions = s.completions := rfl
@[simp] theorem State.setTick_turns (s : State) (t : Tick) : (s.setTick t).turns = s.turns := rfl
@[simp] theorem State.setTick_drawn (s : State) (t : Tick) : (s.setTick t).drawn = s.drawn := rfl

/-! ### setSlave -/

@[simp] theorem State.setSlave_gie (s : State) (v : Option RefSlave) : (s.setSlave v).gie = s.gie := rfl
@[simp] theorem State.setSlave_busy (s : State) (v : Option RefSlave) : (s.setSlave v).busy = s.busy := rfl
@[simp] theorem State.setSlave_pwm (s : State) (v : Option RefSlave) : (s.setSlave v).pwm = s.pwm := rfl
@[simp] theorem State.setSlave_i2c (s : State) (v : Option RefSlave) : (s.setSlave v).i2c = s.i2c := rfl
@[simp] theorem State.setSlave_trace (s : State) (v : Option RefSlave) : (s.setSlave v).trace = s.trace := rfl
@[simp] theorem State.setSlave_tick (s : State) (v : Option RefSlave) : (s.setSlave v).tick = s.tick := rfl
@[simp] theorem State.setSlave_cmdOut (s : State) (v : Option RefSlave) : (s.setSlave v).cmdOut = s.cmdOut := rfl
@[simp] theorem State.setSlave_slave (s : State) (v : Option RefSlave) : (s.setSlave v).slave = v := rfl
@[simp] theorem State.setSlave_params (s : State) (v : Option RefSlave) : (s.setSlave v).params = s.params := rfl
@[simp] theorem State.setSlave_words (s : State) (v : Option RefSlave) : (s.setSlave v).words = s.words := rfl
@[simp] theorem State.setSlave_bytes (s : State) (v : Option RefSlave) : (s.setSlave v).bytes = s.bytes := rfl
@[simp] theorem State.setSlave_halted (s : State) (v : Option RefSlave) : (s.setSlave v).halted = s.halted := rfl
@[simp] theorem State.setSlave_completions (s : State) (v : Option RefSlave) : (s.setSlave v).completions = s.completions := rfl
@[simp] theorem State.setSlave_turns (s : State) (v : Option RefSlave) : (s.setSlave v).turns = s.turns := rfl
@[simp] theorem State.setSlave_drawn (s : State) (v : Option RefSlave) : (s.setSlave v).drawn = s.drawn := rfl

/-! ### setWords -/

@[simp] theorem State.setWords_gie (s : State) (ws : List OpWord) : (s.setWords ws).gie = s.gie := rfl
@[simp] theorem State.setWords_busy (s : State) (ws : List OpWord) : (s.setWords ws).busy = s.busy := rfl
@[simp] theorem State.setWords_pwm (s : State) (ws : List OpWord) : (s.setWords ws).pwm = s.pwm := rfl
@[simp] theorem State.setWords_i2c (s : State) (ws : List OpWord) : (s.setWords ws).i2c = s.i2c := rfl
@[simp] theorem State.setWords_trace (s : State) (ws : List OpWord) : (s.setWords ws).trace = s.trace := rfl
@[simp] theorem State.setWords_tick (s : State) (ws : List OpWord) : (s.setWords ws).tick = s.tick := rfl
@[simp] theorem State.setWords_cmdOut (s : State) (ws : List OpWord) : (s.setWords ws).cmdOut = s.cmdOut := rfl
@[simp] theorem State.setWords_slave (s : State) (ws : List OpWord) : (s.setWords ws).slave = s.slave := rfl
@[simp] theorem State.setWords_params (s : State) (ws : List OpWord) : (s.setWords ws).params = s.params := rfl
@[simp] theorem State.setWords_words (s : State) (ws : List OpWord) : (s.setWords ws).words = ws := rfl
@[simp] theorem State.setWords_bytes (s : State) (ws : List OpWord) : (s.setWords ws).bytes = s.bytes := rfl
@[simp] theorem State.setWords_halted (s : State) (ws : List OpWord) : (s.setWords ws).halted = s.halted := rfl
@[simp] theorem State.setWords_completions (s : State) (ws : List OpWord) : (s.setWords ws).completions = s.completions := rfl
@[simp] theorem State.setWords_turns (s : State) (ws : List OpWord) : (s.setWords ws).turns = s.turns := rfl
@[simp] theorem State.setWords_drawn (s : State) (ws : List OpWord) : (s.setWords ws).drawn = s.drawn := rfl

/-! ### setBytes -/

@[simp] theorem State.setBytes_gie (s : State) (bs : List Byte) : (s.setBytes bs).gie = s.gie := rfl
@[simp] theorem State.setBytes_busy (s : State) (bs : List Byte) : (s.setBytes bs).busy = s.busy := rfl
@[simp] theorem State.setBytes_pwm (s : State) (bs : List Byte) : (s.setBytes bs).pwm = s.pwm := rfl
@[simp] theorem State.setBytes_i2c (s : State) (bs : List Byte) : (s.setBytes bs).i2c = s.i2c := rfl
@[simp] theorem State.setBytes_trace (s : State) (bs : List Byte) : (s.setBytes bs).trace = s.trace := rfl
@[simp] theorem State.setBytes_tick (s : State) (bs : List Byte) : (s.setBytes bs).tick = s.tick := rfl
@[simp] theorem State.setBytes_cmdOut (s : State) (bs : List Byte) : (s.setBytes bs).cmdOut = s.cmdOut := rfl
@[simp] theorem State.setBytes_slave (s : State) (bs : List Byte) : (s.setBytes bs).slave = s.slave := rfl
@[simp] theorem State.setBytes_params (s : State) (bs : List Byte) : (s.setBytes bs).params = s.params := rfl
@[simp] theorem State.setBytes_words (s : State) (bs : List Byte) : (s.setBytes bs).words = s.words := rfl
@[simp] theorem State.setBytes_bytes (s : State) (bs : List Byte) : (s.setBytes bs).bytes = bs := rfl
@[simp] theorem State.setBytes_halted (s : State) (bs : List Byte) : (s.setBytes bs).halted = s.halted := rfl
@[simp] theorem State.setBytes_completions (s : State) (bs : List Byte) : (s.setBytes bs).completions = s.completions := rfl
@[simp] theorem State.setBytes_turns (s : State) (bs : List Byte) : (s.setBytes bs).turns = s.turns := rfl
@[simp] theorem State.setBytes_drawn (s : State) (bs : List Byte) : (s.setBytes bs).drawn = s.drawn := rfl

/-! ### halt -/

@[simp] theorem State.halt_gie (s : State) : (s.halt).gie = s.gie := rfl
@[simp] theorem State.halt_busy (s : State) : (s.halt).busy = s.busy := rfl
@[simp] theorem State.halt_pwm (s : State) : (s.halt).pwm = s.pwm := rfl
@[simp] theorem State.halt_i2c (s : State) : (s.halt).i2c = s.i2c := rfl
@[simp] theorem State.halt_trace (s : State) : (s.halt).trace = s.trace := rfl
@[simp] theorem State.halt_tick (s : State) : (s.halt).tick = s.tick := rfl
@[simp] theorem State.halt_cmdOut (s : State) : (s.halt).cmdOut = s.cmdOut := rfl
@[simp] theorem State.halt_slave (s : State) : (s.halt).slave = s.slave := rfl
@[simp] theorem State.halt_params (s : State) : (s.halt).params = s.params := rfl
@[simp] theorem State.halt_words (s : State) : (s.halt).words = s.words := rfl
@[simp] theorem State.halt_bytes (s : State) : (s.halt).bytes = s.bytes := rfl
@[simp] theorem State.halt_halted (s : State) : (s.halt).halted = true := rfl
@[simp] theorem State.halt_completions (s : State) : (s.halt).completions = s.completions := rfl
@[simp] theorem State.halt_turns (s : State) : (s.halt).turns = s.turns := rfl
@[simp] theorem State.halt_drawn (s : State) : (s.halt).drawn = s.drawn := rfl

/-! ### setTurns -/

@[simp] theorem State.setTurns_gie (s : State) (ts : List Turn) (n : Nat) : (s.setTurns ts n).gie = s.gie := rfl
@[simp] theorem State.setTurns_busy (s : State) (ts : List Turn) (n : Nat) : (s.setTurns ts n).busy = s.busy := rfl
@[simp] theorem State.setTurns_pwm (s : State) (ts : List Turn) (n : Nat) : (s.setTurns ts n).pwm = s.pwm := rfl
@[simp] theorem State.setTurns_i2c (s : State) (ts : List Turn) (n : Nat) : (s.setTurns ts n).i2c = s.i2c := rfl
@[simp] theorem State.setTurns_trace (s : State) (ts : List Turn) (n : Nat) : (s.setTurns ts n).trace = s.trace := rfl
@[simp] theorem State.setTurns_tick (s : State) (ts : List Turn) (n : Nat) : (s.setTurns ts n).tick = s.tick := rfl
@[simp] theorem State.setTurns_cmdOut (s : State) (ts : List Turn) (n : Nat) : (s.setTurns ts n).cmdOut = s.cmdOut := rfl
@[simp] theorem State.setTurns_slave (s : State) (ts : List Turn) (n : Nat) : (s.setTurns ts n).slave = s.slave := rfl
@[simp] theorem State.setTurns_params (s : State) (ts : List Turn) (n : Nat) : (s.setTurns ts n).params = s.params := rfl
@[simp] theorem State.setTurns_words (s : State) (ts : List Turn) (n : Nat) : (s.setTurns ts n).words = s.words := rfl
@[simp] theorem State.setTurns_bytes (s : State) (ts : List Turn) (n : Nat) : (s.setTurns ts n).bytes = s.bytes := rfl
@[simp] theorem State.setTurns_halted (s : State) (ts : List Turn) (n : Nat) : (s.setTurns ts n).halted = s.halted := rfl
@[simp] theorem State.setTurns_completions (s : State) (ts : List Turn) (n : Nat) : (s.setTurns ts n).completions = s.completions := rfl
@[simp] theorem State.setTurns_turns (s : State) (ts : List Turn) (n : Nat) : (s.setTurns ts n).turns = ts := rfl
@[simp] theorem State.setTurns_drawn (s : State) (ts : List Turn) (n : Nat) : (s.setTurns ts n).drawn = n := rfl

/-! ### emit -/

@[simp] theorem State.emit_gie (s : State) (e : BusEvent) : (s.emit e).gie = s.gie := rfl
@[simp] theorem State.emit_busy (s : State) (e : BusEvent) : (s.emit e).busy = s.busy := rfl
@[simp] theorem State.emit_pwm (s : State) (e : BusEvent) : (s.emit e).pwm = s.pwm := rfl
@[simp] theorem State.emit_i2c (s : State) (e : BusEvent) : (s.emit e).i2c = s.i2c := rfl
@[simp] theorem State.emit_trace (s : State) (e : BusEvent) : (s.emit e).trace = s.trace ++ [e] := rfl
@[simp] theorem State.emit_tick (s : State) (e : BusEvent) : (s.emit e).tick = s.tick := rfl
@[simp] theorem State.emit_cmdOut (s : State) (e : BusEvent) : (s.emit e).cmdOut = s.cmdOut := rfl
@[simp] theorem State.emit_slave (s : State) (e : BusEvent) : (s.emit e).slave = s.slave := rfl
@[simp] theorem State.emit_params (s : State) (e : BusEvent) : (s.emit e).params = s.params := rfl
@[simp] theorem State.emit_words (s : State) (e : BusEvent) : (s.emit e).words = s.words := rfl
@[simp] theorem State.emit_bytes (s : State) (e : BusEvent) : (s.emit e).bytes = s.bytes := rfl
@[simp] theorem State.emit_halted (s : State) (e : BusEvent) : (s.emit e).halted = s.halted := rfl
@[simp] theorem State.emit_completions (s : State) (e : BusEvent) : (s.emit e).completions = s.completions := rfl
@[simp] theorem State.emit_turns (s : State) (e : BusEvent) : (s.emit e).turns = s.turns := rfl
@[simp] theorem State.emit_drawn (s : State) (e : BusEvent) : (s.emit e).drawn = s.drawn := rfl

/-! ### notify -/

@[simp] theorem State.notify_gie (s : State) (n : Notice) : (s.notify n).gie = s.gie := rfl
@[simp] theorem State.notify_busy (s : State) (n : Notice) : (s.notify n).busy = s.busy := rfl
@[simp] theorem State.notify_pwm (s : State) (n : Notice) : (s.notify n).pwm = s.pwm := rfl
@[simp] theorem State.notify_i2c (s : State) (n : Notice) : (s.notify n).i2c = s.i2c := rfl
@[simp] theorem State.notify_trace (s : State) (n : Notice) : (s.notify n).trace = s.trace := rfl
@[simp] theorem State.notify_tick (s : State) (n : Notice) : (s.notify n).tick = s.tick := rfl
@[simp] theorem State.notify_cmdOut (s : State) (n : Notice) : (s.notify n).cmdOut = s.cmdOut ++ [n] := rfl
@[simp] theorem State.notify_slave (s : State) (n : Notice) : (s.notify n).slave = s.slave := rfl
@[simp] theorem State.notify_params (s : State) (n : Notice) : (s.notify n).params = s.params := rfl
@[simp] theorem State.notify_words (s : State) (n : Notice) : (s.notify n).words = s.words := rfl
@[simp] theorem State.notify_bytes (s : State) (n : Notice) : (s.notify n).bytes = s.bytes := rfl
@[simp] theorem State.notify_halted (s : State) (n : Notice) : (s.notify n).halted = s.halted := rfl
@[simp] theorem State.notify_completions (s : State) (n : Notice) : (s.notify n).completions = s.completions := rfl
@[simp] theorem State.notify_turns (s : State) (n : Notice) : (s.notify n).turns = s.turns := rfl
@[simp] theorem State.notify_drawn (s : State) (n : Notice) : (s.notify n).drawn = s.drawn := rfl

/-! ### answer -/

@[simp] theorem State.answer_gie (s : State) (r : Option Byte) : (s.answer r).gie = s.gie := rfl
@[simp] theorem State.answer_busy (s : State) (r : Option Byte) : (s.answer r).busy = s.busy := rfl
@[simp] theorem State.answer_pwm (s : State) (r : Option Byte) : (s.answer r).pwm = s.pwm := rfl
@[simp] theorem State.answer_i2c (s : State) (r : Option Byte) : (s.answer r).i2c = s.i2c := rfl
@[simp] theorem State.answer_trace (s : State) (r : Option Byte) : (s.answer r).trace = s.trace := rfl
@[simp] theorem State.answer_tick (s : State) (r : Option Byte) : (s.answer r).tick = s.tick := rfl
@[simp] theorem State.answer_cmdOut (s : State) (r : Option Byte) : (s.answer r).cmdOut = s.cmdOut := rfl
@[simp] theorem State.answer_slave (s : State) (r : Option Byte) : (s.answer r).slave = s.slave := rfl
@[simp] theorem State.answer_params (s : State) (r : Option Byte) : (s.answer r).params = s.params := rfl
@[simp] theorem State.answer_words (s : State) (r : Option Byte) : (s.answer r).words = s.words := rfl
@[simp] theorem State.answer_bytes (s : State) (r : Option Byte) : (s.answer r).bytes = s.bytes := rfl
@[simp] theorem State.answer_halted (s : State) (r : Option Byte) : (s.answer r).halted = s.halted := rfl
@[simp] theorem State.answer_completions (s : State) (r : Option Byte) : (s.answer r).completions = s.completions ++ [r] := rfl
@[simp] theorem State.answer_turns (s : State) (r : Option Byte) : (s.answer r).turns = s.turns := rfl
@[simp] theorem State.answer_drawn (s : State) (r : Option Byte) : (s.answer r).drawn = s.drawn := rfl

end Sys2Proof.Machine
end

