-- ==== Sys2Proof/Laws/Ops.lean ====
section
/-! SUPPORT. For each shared operation and each meaning, one lemma that says once what it can do: when it answers a next
state, and which. -/

namespace Sys2Proof.Machine

/-! ### Shared operations -/

/-- A guarded meaning that refuses when `c` holds. -/
theorem refuseIf_eq_next {c : Bool} {r : Refusal} {u t : State} :
    (if c = true then Host.Outcome.refused r else .next u : Result) = .next t ↔ c = false ∧ t = u := by
  cases c <;> simp [eq_comm]

/-- A guarded meaning that refuses unless `c` holds. -/
theorem refuseUnless_eq_next {c : Bool} {r : Refusal} {u t : State} :
    (if c = true then Host.Outcome.next u else .refused r : Result) = .next t ↔ c = true ∧ t = u := by
  cases c <;> simp [eq_comm]

theorem andThen_eq_next {r : Result} {f : State → State} {t : State} :
    andThen r f = .next t ↔ ∃ s, r = .next s ∧ t = f s := by
  cases r <;> simp [andThen, eq_comm]

theorem andThen_eq_refused {r : Result} {f : State → State} {e : Refusal} :
    andThen r f = .refused e ↔ r = .refused e := by
  cases r <;> simp [andThen]

theorem setDuty_eq_next {l : DutyLevel} {s t : State} :
    setDuty l s = .next t ↔
      s.pwm.cfg = true ∧ t = s.setPwm { s.pwm with cmpBuf := compareValue s.pwm.top l, level := l } :=
  refuseUnless_eq_next

theorem setDuty_eq_refused {l : DutyLevel} {s : State} {e : Refusal} :
    setDuty l s = .refused e ↔ s.pwm.cfg = false ∧ e = .pwmNotConfigured := by
  unfold setDuty
  cases s.pwm.cfg <;> simp [eq_comm]

theorem command_eq_next {l : DutyLevel} {s t : State} :
    command l s = .next t ↔ s.pwm.cfg = true ∧
      t = (s.setPwm { s.pwm with cmpBuf := compareValue s.pwm.top l, level := l }).notify (.ack l) := by
  unfold command
  rw [andThen_eq_next]
  simp only [setDuty_eq_next]
  constructor
  · rintro ⟨u, ⟨h, rfl⟩, rfl⟩
    exact ⟨h, rfl⟩
  · rintro ⟨h, rfl⟩
    exact ⟨_, ⟨h, rfl⟩, rfl⟩

theorem issue_eq_next {s t : State} {i : I2c} {k : WaitKind} :
    issue s i k = .next t ↔ t = (s.setI2c i).setBusy (some k) := by
  simp [issue, eq_comm]

/-- A Host that waits either completes, taking the result, or is held. -/
theorem completeStep_cases (k : WaitKind) (s : State) :
    (s.i2c.done = true ∧ completeStep k s = (s.setBusy none).answer (completionRet s.i2c k)) ∨
      (s.i2c.done = false ∧ completeStep k s = s) := by
  unfold completeStep
  split <;> simp_all

/-- The Handler's turn takes a due interrupt or changes nothing. -/
theorem takeInterrupt_cases (s : State) :
    (handlerDue s = true ∧ takeInterrupt s = s.setTick (handlerTick s.tick)) ∨
      (handlerDue s = false ∧ takeInterrupt s = s) := by
  unfold takeInterrupt
  split <;> simp_all

/-- One more tick: it fires at the hundredth and counts otherwise; the pending bit is taken, `run` stays. -/
theorem handlerTick_cases (t : Tick) :
    (t.count + 1 = 100 ∧ handlerTick t = { t with pend := false, flag := true, count := 0 }) ∨
      (t.count + 1 ≠ 100 ∧ handlerTick t = { t with pend := false, count := t.count + 1 }) := by
  unfold handlerTick
  by_cases h : t.count + 1 = BitVec.ofNat 8 Config.tickDiv
  · exact .inl ⟨h, if_pos h⟩
  · exact .inr ⟨h, if_neg h⟩

theorem tickTimerStep_cases (s : State) :
    (s.tick.run = true ∧ handlerDue s = false ∧ tickTimerStep s = s.setTick { s.tick with pend := true }) ∨
      tickTimerStep s = s := by
  unfold tickTimerStep
  split <;> simp_all

theorem pwmTimerStep_cases (s : State) :
    (s.pwm.cfg = true ∧ pwmTimerStep s = s.setPwm (clockPwm s.pwm)) ∨ (s.pwm.cfg = false ∧ pwmTimerStep s = s) := by
  unfold pwmTimerStep
  split <;> simp_all

theorem clockPwm_cases (p : Pwm) :
    (p.cnt = p.top ∧ clockPwm p = { p with cnt := 0, cmpAct := p.cmpBuf }) ∨
      (p.cnt ≠ p.top ∧ clockPwm p = { p with cnt := p.cnt + 1 }) := by
  unfold clockPwm
  split <;> simp_all

/-- What the engine's turn can do: nothing, or exactly one of the four engine steps, in the order of R140. -/
theorem engineTurn_cases (a : BusAnswer) (s : State) :
    engineTurn a s = s ∨
      (s.i2c.stopPend = true ∧ busGrants s a = true ∧ engineTurn a s = engStop s) ∨
      (s.i2c.stopPend = false ∧ s.i2c.cmd = .start ∧ busGrants s a = true ∧ engineTurn a s = engStart s) ∨
      (s.i2c.stopPend = false ∧ s.i2c.cmd = .tx ∧ ∃ k, busAck s a = some k ∧ engineTurn a s = engTx k s) ∨
      (s.i2c.stopPend = false ∧ s.i2c.cmd = .rx ∧ ∃ d, busData s a = some d ∧ engineTurn a s = engRx d s) := by
  unfold engineTurn
  cases hs : s.i2c.stopPend
  · cases hc : s.i2c.cmd
    · simp
    · cases hg : busGrants s a <;> simp
    · cases hk : busAck s a <;> simp
    · cases hd : busData s a <;> simp
  · cases hg : busGrants s a <;> simp

/-! ### The meanings -/

theorem execPwmConfigure_eq_next {s t : State} :
    execPwmConfigure s = .next t ↔
      s.pwm.cfg = false ∧ t = (s.setPwm (configuredPwm s.params.pwmTop)).answer none :=
  refuseIf_eq_next

theorem execPwmSetduty_eq_next {l : DutyLevel} {s t : State} :
    execPwmSetduty l s = .next t ↔ s.pwm.cfg = true ∧
      t = (s.setPwm { s.pwm with cmpBuf := compareValue s.pwm.top l, level := l }).answer none := by
  unfold execPwmSetduty
  rw [andThen_eq_next]
  simp only [setDuty_eq_next]
  constructor
  · rintro ⟨u, ⟨h, rfl⟩, rfl⟩
    exact ⟨h, rfl⟩
  · rintro ⟨h, rfl⟩
    exact ⟨_, ⟨h, rfl⟩, rfl⟩

theorem execI2cInit_eq_next {s t : State} :
    execI2cInit s = .next t ↔ s.i2c.en = false ∧
      t = (s.setI2c { s.i2c with div := Config.i2cDiv Config.fCpu Config.fScl, en := true }).answer none :=
  refuseIf_eq_next

theorem execI2cStart_eq_next {s t : State} :
    execI2cStart s = .next t ↔ s.i2c.en = true ∧ ∃ p, startPhase s.i2c.phase = some p ∧
      t = (s.setI2c (trigger { s.i2c with phase := p } .start)).setBusy (some .start) := by
  unfold execI2cStart
  cases he : s.i2c.en <;> cases hp : startPhase s.i2c.phase <;> simp [issue, eq_comm]

theorem execI2cStop_eq_next {s t : State} :
    execI2cStop s = .next t ↔ s.i2c.en = true ∧ ∃ p, stopPhase s.i2c.phase = some p ∧
      t = (s.setI2c { s.i2c with done := false, stopPend := true, phase := p, dev := none }).answer none := by
  unfold execI2cStop
  cases he : s.i2c.en <;> cases hp : stopPhase s.i2c.phase <;> simp [eq_comm]

theorem execI2cWrite_eq_next {b : Byte} {s t : State} :
    execI2cWrite b s = .next t ↔ s.i2c.en = true ∧ ∃ e, writeEffect s.i2c.phase s.i2c.dev b = .ok e ∧
      t = (s.setI2c (trigger { s.i2c with dr := b, txkind := e.kind, phase := e.phase, dev := e.dev } .tx)).setBusy
        (some .tx) := by
  unfold execI2cWrite
  cases he : s.i2c.en <;> cases hp : writeEffect s.i2c.phase s.i2c.dev b <;> simp [issue, eq_comm]

theorem execI2cReadack_eq_next {s t : State} :
    execI2cReadack s = .next t ↔ s.i2c.en = true ∧ ∃ p, readAckPhase s.i2c.phase = some p ∧
      t = (s.setI2c (trigger { s.i2c with ackEn := true, phase := p } .rx)).setBusy (some .rxAck) := by
  unfold execI2cReadack
  cases he : s.i2c.en <;> cases hp : readAckPhase s.i2c.phase <;> simp [issue, eq_comm]

theorem execI2cReadnack_eq_next {s t : State} :
    execI2cReadnack s = .next t ↔ s.i2c.en = true ∧ ∃ p, readNackPhase s.i2c.phase = some p ∧
      t = (s.setI2c (trigger { s.i2c with ackEn := false, phase := p } .rx)).setBusy (some .rxNack) := by
  unfold execI2cReadnack
  cases he : s.i2c.en <;> cases hp : readNackPhase s.i2c.phase <;> simp [issue, eq_comm]

theorem execI2cGetstatus_eq_next {s t : State} :
    execI2cGetstatus s = .next t ↔ t = s.answer (some (statusRegister s.i2c &&& Config.statusMask)) := by
  simp [execI2cGetstatus, eq_comm]

theorem execTickInit_eq_next {s t : State} :
    execTickInit s = .next t ↔
      s.tick.run = false ∧ t = (s.setTick { s.tick with run := true }).answer none :=
  refuseIf_eq_next

theorem execTickRdflag_eq_next {s t : State} :
    execTickRdflag s = .next t ↔ t = s.answer (some (zext8 s.tick.flag)) := by
  simp [execTickRdflag, eq_comm]

theorem execTickClrflag_eq_next {s t : State} :
    execTickClrflag s = .next t ↔ t = (s.setTick (clearFlag s.tick)).answer none := by
  simp [execTickClrflag, eq_comm]

theorem execTickRdcnt_eq_next {s t : State} :
    execTickRdcnt s = .next t ↔ t = s.answer (some s.tick.count) := by
  simp [execTickRdcnt, eq_comm]

theorem execTickTake_eq_next {s t : State} :
    execTickTake s = .next t ↔ t = (s.setTick (clearFlag s.tick)).answer (some (zext8 s.tick.flag)) := by
  simp [execTickTake, eq_comm]

theorem execIrqEnable_eq_next {s t : State} :
    execIrqEnable s = .next t ↔ t = (s.setGie true).answer none := by
  simp [execIrqEnable, eq_comm]

theorem execIrqDisable_eq_next {s t : State} :
    execIrqDisable s = .next t ↔ t = (s.setGie false).answer none := by
  simp [execIrqDisable, eq_comm]

theorem execUnrecognised_eq_next {b : Byte} {s t : State} :
    execUnrecognised b s = .next t ↔ t = s.notify (.unrec b) := by
  simp [execUnrecognised, eq_comm]

end Sys2Proof.Machine
end

