-- ==== Sys2Proof/Laws/PerInstr.lean ====
section
/-! SUPPORT. The statements made per instruction: the round trip of the encoding. -/

namespace Sys2Proof.Laws

/-- Decoding an encoded well-formed operation gives it back. -/
def RoundTrip.Statement (i : Instr) : Prop := i.wellFormed = true → decode (encode i) = some i

theorem RoundTrip.pwmConfigure : RoundTrip.Statement .pwmConfigure := fun _ => by decide

theorem RoundTrip.pwmSetduty (l : DutyLevel) : RoundTrip.Statement (.pwmSetduty l) := by
  intro _
  cases l <;> decide

theorem RoundTrip.i2cInit : RoundTrip.Statement .i2cInit := fun _ => by decide

theorem RoundTrip.i2cStart : RoundTrip.Statement .i2cStart := fun _ => by decide

theorem RoundTrip.i2cStop : RoundTrip.Statement .i2cStop := fun _ => by decide

theorem RoundTrip.i2cWrite (b : Byte) : RoundTrip.Statement (.i2cWrite b) := by
  intro _
  revert b
  decide

theorem RoundTrip.i2cReadack : RoundTrip.Statement .i2cReadack := fun _ => by decide

theorem RoundTrip.i2cReadnack : RoundTrip.Statement .i2cReadnack := fun _ => by decide

theorem RoundTrip.i2cGetstatus : RoundTrip.Statement .i2cGetstatus := fun _ => by decide

theorem RoundTrip.tickInit : RoundTrip.Statement .tickInit := fun _ => by decide

theorem RoundTrip.tickRdflag : RoundTrip.Statement .tickRdflag := fun _ => by decide

theorem RoundTrip.tickClrflag : RoundTrip.Statement .tickClrflag := fun _ => by decide

theorem RoundTrip.tickRdcnt : RoundTrip.Statement .tickRdcnt := fun _ => by decide

theorem RoundTrip.tickTake : RoundTrip.Statement .tickTake := fun _ => by decide

theorem RoundTrip.irqEnable : RoundTrip.Statement .irqEnable := fun _ => by decide

theorem RoundTrip.irqDisable : RoundTrip.Statement .irqDisable := fun _ => by decide

theorem RoundTrip.cmdLow : RoundTrip.Statement .cmdLow := fun _ => by decide

theorem RoundTrip.cmdMed : RoundTrip.Statement .cmdMed := fun _ => by decide

theorem RoundTrip.cmdHigh : RoundTrip.Statement .cmdHigh := fun _ => by decide

theorem RoundTrip.cmdOff : RoundTrip.Statement .cmdOff := fun _ => by decide

end Sys2Proof.Laws
end

