-- ==== Sys2Proof/Machine/Program.lean ====
section
/-! DEFINITION. Host programs over the block: the sampling loop (42_i2c_transactions.md R172), joined to the machine step by
step, and the order in which a program must initialise the units (70_reset_and_hazards.md R262 to R264). -/

namespace Sys2Proof.Machine

/-! ### The sampling loop (R172) -/

/-- Where IRQ.ENABLE stands among VERIFYID and SENSORCFG: "the document does not say; either order" (R172). -/
inductive EnablePlace where
  | beforeVerify
  | beforeConfigure
  | afterConfigure
  deriving DecidableEq, Repr

/-- What R172 leaves to the program: the sensor, the configuration bytes `a` and `g`, TICK.TAKE or CONSUME as the poll, and
the place of IRQ.ENABLE. -/
structure SamplingConfig where
  sensor : SensorParams
  accel : Byte
  gyro : Byte
  consume : Bool
  enable : EnablePlace
  deriving DecidableEq, Repr

/-- The points at which the program decides by a result what comes next. -/
inductive SamplingPoint where
  | boot
  | configure
  | poll
  | clear
  | sample
  | halted
  deriving DecidableEq, Repr

/-- IRQ.ENABLE, if it stands at this place. -/
def enableAt (c : SamplingConfig) (place : EnablePlace) : List Instr := if c.enable = place then [.irqEnable] else []

/-- The operations issued from a point up to the next decision (R172). -/
def samplingOps (c : SamplingConfig) : SamplingPoint → List Instr
  | .boot => [.i2cInit, .tickInit] ++ enableAt c .beforeVerify ++ verifyid c.sensor
  | .configure => enableAt c .beforeConfigure ++ sensorcfg c.sensor c.accel c.gyro ++ enableAt c .afterConfigure
  | .poll => if c.consume then consumeRead else [.tickTake]
  | .clear => consumeClear 1
  | .sample => readaccel c.sensor
  | .halted => []

/-- The decision at the end of a point, by the bytes its operations returned (R172, R166, R186). After a mismatch the program
halts, and it stays halted (R246); after a pass it polls again, for ever. -/
def samplingNext (c : SamplingConfig) (results : List Byte) : SamplingPoint → SamplingPoint
  | .boot => if results.head?.any (verifyidOk c.sensor) then .configure else .halted
  | .configure => .poll
  | .poll => if results.head? = some 1 then (if c.consume then .clear else .sample) else .poll
  | .clear => .sample
  | .sample => .poll
  | .halted => .halted

/-- The program running over the block: where it is, how many completions there were when it got there, the samples taken
(42_i2c_transactions.md R170), and the machine. -/
structure SamplingRun where
  point : SamplingPoint
  mark : Nat
  samples : List (Int × Int × Int)
  machine : State
  deriving DecidableEq, Repr

/-- Every operation of the point has been issued and has completed. -/
def samplingIdle (r : SamplingRun) : Bool := r.machine.words.isEmpty && r.machine.busy.isNone

/-- The bytes returned since the point was reached. -/
def samplingResults (r : SamplingRun) : List Byte := (r.machine.completions.drop r.mark).filterMap id

/-- The program reaches a point: the Host is to issue its operations, or it halts. -/
def samplingEnter (c : SamplingConfig) (p : SamplingPoint) (samples : List (Int × Int × Int))
    (s : State) : SamplingRun where
  point := p
  mark := s.completions.length
  samples := samples
  machine := if p = .halted then s.halt else s.setWords (opWords (samplingOps c p))

/-- A point that is finished is left for the next; a burst read that is finished has given one sample. -/
def samplingAdvance (c : SamplingConfig) (r : SamplingRun) : SamplingRun :=
  if samplingIdle r then
    samplingEnter c (samplingNext c (samplingResults r) r.point)
      (r.samples ++ if r.point = .sample then (axes (samplingResults r)).toList else []) r.machine
  else r

/-- The program begins (R172). -/
def samplingStart (c : SamplingConfig) (s : State) : SamplingRun := samplingEnter c .boot [] s

/-- One step of the block under the program: any agent's step, then the program's own decision, which is no step of the
block. -/
def samplingStep (c : SamplingConfig) (r : SamplingRun) : Host.Outcome SamplingRun Fault Refusal :=
  match step r.machine with
  | .next s => .next (samplingAdvance c { r with machine := s })
  | .fault e => .fault e
  | .refused e => .refused e

/-! ### The order of initialisation (R262 to R264) -/

/-- A host program as the boot order sees it: what it issues before its main loop, in order, and what the loop may issue. -/
structure HostImage where
  boot : List Instr
  loop : List Instr
  deriving DecidableEq, Repr

/-- The initialisation that R262 wants before an operation (items 1 to 3). Reading the flag or the count is taken as "a tick
is expected"; log 26. -/
def initNeeded : Instr → Option Instr
  | .pwmConfigure => none
  | .pwmSetduty _ => some .pwmConfigure
  | .i2cInit => none
  | .i2cStart => some .i2cInit
  | .i2cStop => some .i2cInit
  | .i2cWrite _ => some .i2cInit
  | .i2cReadack => some .i2cInit
  | .i2cReadnack => some .i2cInit
  | .i2cGetstatus => none
  | .tickInit => none
  | .tickRdflag => some .tickInit
  | .tickClrflag => none
  | .tickRdcnt => some .tickInit
  | .tickTake => some .tickInit
  | .irqEnable => none
  | .irqDisable => none
  | .cmdLow => some .pwmConfigure
  | .cmdMed => some .pwmConfigure
  | .cmdHigh => some .pwmConfigure
  | .cmdOff => some .pwmConfigure

/-- The image uses the unit that `init` initialises. -/
def usesUnit (img : HostImage) (init : Instr) : Bool :=
  (img.boot ++ img.loop).any fun i => decide (i = init) || decide (initNeeded i = some init)

/-- R262, items 1 to 3, for one unit: an image that uses it initialises it exactly once, before the main loop and before the
first operation that needs it. -/
def initialisedFirst (img : HostImage) (init : Instr) : Bool :=
  !usesUnit img init ||
    (decide (img.boot.count init = 1) && decide (init ∉ img.loop) &&
      (img.boot.takeWhile fun i => decide (i ≠ init)).all fun i => decide (initNeeded i ≠ some init))

/-- R262, items 5 and 6: an image that expects ticks, or enables interrupts at all, enables them before the main loop and
after every initialisation. -/
def enabledAfterInit (img : HostImage) : Bool :=
  !(usesUnit img .tickInit || decide (.irqEnable ∈ img.boot ++ img.loop)) ||
    (decide (.irqEnable ∈ img.boot) &&
      (img.boot.dropWhile fun i => decide (i ≠ .irqEnable)).all fun i =>
        decide (i ≠ .pwmConfigure ∧ i ≠ .i2cInit ∧ i ≠ .tickInit))

/-- The named premise `BootOrder` (R264): the order of R262. It is a premise on a host program and no check of the block:
`exec` gives IRQ.ENABLE and the initialisations their plain meaning in any order. -/
def bootOrder (img : HostImage) : Bool :=
  initialisedFirst img .pwmConfigure && initialisedFirst img .i2cInit && initialisedFirst img .tickInit &&
    enabledAfterInit img

/-- The sensor image (R263): the sampling program when the identity check succeeds. -/
def samplingImage (c : SamplingConfig) : HostImage where
  boot := samplingOps c .boot ++ samplingOps c .configure
  loop := samplingOps c .poll ++ (if c.consume then samplingOps c .clear else []) ++ samplingOps c .sample

/-- The fan-control image (R263): PWM.CONFIGURE, then the main loop of 44_cmd.md. -/
def fanImage : HostImage where
  boot := [.pwmConfigure]
  loop := [.cmdLow, .cmdMed, .cmdHigh, .cmdOff]

end Sys2Proof.Machine
end

