-- ==== Sys2Proof/Laws/Program.lean ====
section
/-! SUPPORT. The small lemmas of the sampling program: what entering a point and leaving one can do. -/

namespace Sys2Proof.Machine

@[simp] theorem samplingNext_halted (c : SamplingConfig) (results : List Byte) :
    samplingNext c results .halted = .halted := rfl

@[simp] theorem samplingEnter_point (c : SamplingConfig) (p : SamplingPoint) (samples : List (Int × Int × Int)) (s : State) :
    (samplingEnter c p samples s).point = p := rfl

@[simp] theorem samplingEnter_samples (c : SamplingConfig) (p : SamplingPoint) (samples : List (Int × Int × Int))
    (s : State) : (samplingEnter c p samples s).samples = samples := rfl

/-- The program reaches the halt exactly as the Host halts (R246). -/
theorem samplingEnter_machine_halted (c : SamplingConfig) (p : SamplingPoint) (samples : List (Int × Int × Int)) (s : State) :
    (samplingEnter c p samples s).machine.halted = (decide (p = .halted) || s.halted) := by
  unfold samplingEnter
  by_cases h : p = .halted <;> simp [h]

/-- The program's own decision either waits, or enters the next point of R172 with the state as the block left it. -/
theorem samplingAdvance_cases (c : SamplingConfig) (r : SamplingRun) :
    (samplingIdle r = false ∧ samplingAdvance c r = r) ∨
      (samplingIdle r = true ∧ ∃ samples, samplingAdvance c r =
        samplingEnter c (samplingNext c (samplingResults r) r.point) samples r.machine) := by
  unfold samplingAdvance
  cases h : samplingIdle r with
  | false => exact .inl ⟨rfl, rfl⟩
  | true => exact .inr ⟨rfl, _, rfl⟩

/-- After a mismatch nothing of the program follows, for ever (R172, R246). -/
theorem samplingAdvance_halted (c : SamplingConfig) (r : SamplingRun) (h : r.point = .halted) :
    (samplingAdvance c r).point = .halted := by
  rcases samplingAdvance_cases c r with ⟨-, he⟩ | ⟨-, samples, he⟩ <;> simp [he, h]

end Sys2Proof.Machine
end

