-- ==== Sys2Proof/Laws/Step.lean ====
section
/-! SUPPORT. What a step can do, said once: `step_cases`. -/

namespace Sys2Proof.Machine

@[simp] theorem State.turnTaken_gie (s : State) : s.turnTaken.gie = s.gie := by unfold State.turnTaken; split <;> rfl
@[simp] theorem State.turnTaken_busy (s : State) : s.turnTaken.busy = s.busy := by unfold State.turnTaken; split <;> rfl
@[simp] theorem State.turnTaken_pwm (s : State) : s.turnTaken.pwm = s.pwm := by unfold State.turnTaken; split <;> rfl
@[simp] theorem State.turnTaken_i2c (s : State) : s.turnTaken.i2c = s.i2c := by unfold State.turnTaken; split <;> rfl
@[simp] theorem State.turnTaken_trace (s : State) : s.turnTaken.trace = s.trace := by unfold State.turnTaken; split <;> rfl
@[simp] theorem State.turnTaken_tick (s : State) : s.turnTaken.tick = s.tick := by unfold State.turnTaken; split <;> rfl
@[simp] theorem State.turnTaken_cmdOut (s : State) : s.turnTaken.cmdOut = s.cmdOut := by
  unfold State.turnTaken; split <;> rfl
@[simp] theorem State.turnTaken_slave (s : State) : s.turnTaken.slave = s.slave := by unfold State.turnTaken; split <;> rfl
@[simp] theorem State.turnTaken_params (s : State) : s.turnTaken.params = s.params := by
  unfold State.turnTaken; split <;> rfl
@[simp] theorem State.turnTaken_words (s : State) : s.turnTaken.words = s.words := by unfold State.turnTaken; split <;> rfl
@[simp] theorem State.turnTaken_bytes (s : State) : s.turnTaken.bytes = s.bytes := by unfold State.turnTaken; split <;> rfl
@[simp] theorem State.turnTaken_halted (s : State) : s.turnTaken.halted = s.halted := by
  unfold State.turnTaken; split <;> rfl
@[simp] theorem State.turnTaken_completions (s : State) : s.turnTaken.completions = s.completions := by
  unfold State.turnTaken; split <;> rfl
@[simp] theorem State.turnTaken_turns (s : State) : s.turnTaken.turns = s.turns.tail := by
  unfold State.turnTaken; split <;> simp_all
@[simp] theorem State.turnTaken_drawn (s : State) :
    s.turnTaken.drawn = if s.turns = [] then s.drawn + 1 else s.drawn := by
  unfold State.turnTaken; split <;> simp_all
@[simp] theorem handlerDue_turnTaken (s : State) : handlerDue s.turnTaken = handlerDue s := by simp [handlerDue]

/-- An accepted word runs the operation it decodes to. -/
theorem presentWord_eq_next {w : OpWord} {s t : State} :
    presentWord w s = .next t ↔ ∃ i, decodeOp16 w = .op i ∧ exec i s = .next t := by
  unfold presentWord
  split <;> simp_all

/-- A received byte runs its command, or is echoed. -/
theorem dispatchByte_eq_next {b : Byte} {s t : State} :
    dispatchByte b s = .next t ↔
      (∃ i, decodeC8 b = .command i ∧ exec i s = .next t) ∨
        ∃ b', decodeC8 b = .unrecognised b' ∧ t = s.notify (.unrec b') := by
  unfold dispatchByte
  split <;> simp_all [execUnrecognised_eq_next]

/-- What the Host's turn can do when it answers a next state. -/
theorem hostTurn_cases {s t : State} (h : hostTurn s = .next t) :
    t = s ∨
      (handlerDue s = false ∧ ∃ k, s.busy = some k ∧ s.i2c.done = true ∧
        t = (s.setBusy none).answer (completionRet s.i2c k)) ∨
      (handlerDue s = false ∧ s.busy = none ∧ s.halted = false ∧ ∃ w ws i, s.words = w :: ws ∧ decodeOp16 w = .op i ∧
        exec i (s.setWords ws) = .next t) := by
  unfold hostTurn at h
  split at h
  · exact .inl (by simpa using h.symm)
  · next hd =>
    have hd : handlerDue s = false := by simpa using hd
    split at h
    · next k hk =>
      rcases completeStep_cases k s with ⟨hdone, hc⟩ | ⟨-, hc⟩
      · exact .inr (.inl ⟨hd, k, hk, hdone, by simpa [hc] using h.symm⟩)
      · exact .inl (by simpa [hc] using h.symm)
    · next hb =>
      split at h
      · exact .inl (by simpa using h.symm)
      · next hh =>
        split at h
        · exact .inl (by simpa using h.symm)
        · next w ws hw =>
          obtain ⟨i, hi, he⟩ := presentWord_eq_next.mp h
          exact .inr (.inr ⟨hd, hb, by simpa using hh, w, ws, i, hw, hi, he⟩)

/-- What the Dispatcher's turn can do when it answers a next state. -/
theorem dispatcherTurn_cases {s t : State} (h : dispatcherTurn s = .next t) :
    t = s ∨
      (handlerDue s = false ∧ s.busy = none ∧ s.halted = false ∧ ∃ b bs, s.bytes = b :: bs ∧
        ((∃ i, decodeC8 b = .command i ∧ exec i (s.setBytes bs) = .next t) ∨
          ∃ b', decodeC8 b = .unrecognised b' ∧ t = (s.setBytes bs).notify (.unrec b'))) := by
  unfold dispatcherTurn at h
  split at h
  · exact .inl (by simpa using h.symm)
  · next hd =>
    split at h
    · exact .inl (by simpa using h.symm)
    · next b bs hb =>
      have hd' : (handlerDue s = false ∧ s.busy = none) ∧ s.halted = false := by simpa using hd
      exact .inr ⟨hd'.1.1, hd'.1.2, hd'.2, b, bs, hb, dispatchByte_eq_next.mp h⟩

/-- What a step can do, agent by agent. -/
theorem step_cases {s t : State} (h : step s = .next t) :
    (s.turn = .host ∧ hostTurn s.turnTaken = .next t) ∨
      (s.turn = .dispatcher ∧ dispatcherTurn s.turnTaken = .next t) ∨
      (s.turn = .handler ∧ t = takeInterrupt s.turnTaken) ∨
      (s.turn = .tickTimer ∧ t = tickTimerStep s.turnTaken) ∨
      (s.turn = .pwmTimer ∧ t = pwmTimerStep s.turnTaken) ∨
      (∃ a, s.turn = .engine a ∧ t = engineTurn a s.turnTaken) := by
  unfold step at h
  cases ht : s.turn with
  | host => exact .inl ⟨rfl, by rw [ht] at h; exact h⟩
  | dispatcher => exact .inr (.inl ⟨rfl, by rw [ht] at h; exact h⟩)
  | handler => exact .inr (.inr (.inl ⟨rfl, by simpa [ht, agentStep] using h.symm⟩))
  | tickTimer => exact .inr (.inr (.inr (.inl ⟨rfl, by simpa [ht, agentStep] using h.symm⟩)))
  | pwmTimer => exact .inr (.inr (.inr (.inr (.inl ⟨rfl, by simpa [ht, agentStep] using h.symm⟩))))
  | engine a => exact .inr (.inr (.inr (.inr (.inr ⟨a, rfl, by simpa [ht, agentStep] using h.symm⟩))))

/-- The C8 decoder answers one of the four commands only. -/
theorem decodeC8_command {b : Byte} {i : Instr} (h : decodeC8 b = .command i) :
    i = .cmdLow ∨ i = .cmdMed ∨ i = .cmdHigh ∨ i = .cmdOff := by
  unfold decodeC8 at h
  split at h
  · simp_all
  · split at h
    · simp_all
    · split at h
      · simp_all
      · split at h <;> simp_all

end Sys2Proof.Machine
end

