-- ==== Sys2Proof/Laws/RunEnd.lean ====
section
/-! SUPPORT. The end of a run (70_reset_and_hazards.md R282): what is still to happen once it is over changes only what
`finalView` erases. -/

namespace Sys2Proof.Machine

@[simp] theorem finalView_turnTaken (s : State) : finalView s.turnTaken = finalView s := by simp [finalView]

@[simp] theorem settled_turnTaken (s : State) : settled s.turnTaken = settled s := by simp [settled]

/-- What `settled` says, field by field. -/
theorem settled_iff {s : State} :
    settled s = true ↔
      (s.halted = true ∨ (s.words = [] ∧ s.bytes = [])) ∧ s.busy = none ∧ s.i2c.cmd = .none ∧ s.i2c.stopPend = false := by
  simp [settled, and_assoc]

/-- From a settled state every agent's step answers, does no more than the five fields show, and leaves the state settled:
the further steps of R282. -/
theorem step_of_settled {s : State} (hs : settled s = true) :
    ∃ t, step s = .next t ∧ settled t = true ∧ SameFinal s t := by
  obtain ⟨hq, hb, hc, hp⟩ := settled_iff.mp hs
  unfold step
  cases s.turn with
  | host =>
    have : hostTurn s.turnTaken = .next s.turnTaken := by
      rcases hq with hh | ⟨hw, -⟩ <;> simp [hostTurn, *]
    exact ⟨_, this, by simpa using hs, by simp [SameFinal]⟩
  | dispatcher =>
    have : dispatcherTurn s.turnTaken = .next s.turnTaken := by
      rcases hq with hh | ⟨-, hw⟩ <;> simp [dispatcherTurn, *]
    exact ⟨_, this, by simpa using hs, by simp [SameFinal]⟩
  | handler =>
    refine ⟨_, rfl, ?_⟩
    rcases takeInterrupt_cases s.turnTaken with ⟨-, h⟩ | ⟨-, h⟩ <;> rw [h]
    · rcases handlerTick_cases s.tick with ⟨-, ht⟩ | ⟨-, ht⟩ <;> simp [ht, SameFinal, finalView, settled_iff, hq, hb, hc, hp]
    · simp [SameFinal, hs]
  | tickTimer =>
    refine ⟨_, rfl, ?_⟩
    rcases tickTimerStep_cases s.turnTaken with ⟨-, -, h⟩ | h <;> rw [h]
    · simp [SameFinal, finalView, settled_iff, hq, hb, hc, hp]
    · simp [SameFinal, hs]
  | pwmTimer =>
    refine ⟨_, rfl, ?_⟩
    rcases pwmTimerStep_cases s.turnTaken with ⟨-, h⟩ | ⟨-, h⟩ <;> rw [h]
    · rcases clockPwm_cases s.pwm with ⟨-, hk⟩ | ⟨-, hk⟩ <;> simp [hk, SameFinal, finalView, settled_iff, hq, hb, hc, hp]
    · simp [SameFinal, hs]
  | engine a => exact ⟨_, rfl, by simp [engineTurn, hc, hp, hs], by simp [engineTurn, SameFinal, hc, hp]⟩

/-- However long the block goes on after the end of a run, it answers, and the final state is the same. -/
theorem run_of_settled (n : Nat) {s : State} (hs : settled s = true) :
    ∃ t, Sys2Proof.core.run n s = .next t ∧ settled t = true ∧ SameFinal s t := by
  induction n generalizing s with
  | zero => exact ⟨s, rfl, hs, rfl⟩
  | succ n ih =>
    obtain ⟨u, hu, hsu, he⟩ := step_of_settled hs
    obtain ⟨t, ht, hst, he'⟩ := ih hsu
    refine ⟨t, ?_, hst, he.trans he'⟩
    simp only [Host.Core.run, show Sys2Proof.core.step s = .next u from hu]
    exact ht

/-- A run that is over has ended in its state. -/
theorem endsIn_of_runOver {s : State} (h : runOver s = true) : EndsIn s s := ⟨0, s, rfl, h, rfl⟩

end Sys2Proof.Machine
end

