-- ==== Sys2Proof/Tests/Slice0.lean ====
section
/-! SUPPORT. The model's own tests. Expected values are the vectors of spec/95_test_vectors.md and the encodings of
spec/30_encoding.md, named in each comment. The last part meets the hypotheses of each statement (witnesses). -/

namespace Sys2Proof.Tests

open Sys2Proof Sys2Proof.Machine

/-! ### Small states -/

/-- The outcome is a next state with the property. -/
def nextAnd (r : Result) (p : State → Bool) : Bool :=
  match r with
  | .next s => p s
  | .fault _ => false
  | .refused _ => false

/-- The outcome is this refusal. -/
def refusedWith (r : Result) (e : Refusal) : Bool :=
  match r with
  | .next _ => false
  | .fault _ => false
  | .refused e' => decide (e' = e)

/-- After PWM.CONFIGURE with the top 255. -/
def pwmOn : State := State.reset.setPwm (configuredPwm 255)

/-- After I2C.INIT, in the phase `p` with the device `d`. -/
def i2cAt (p : Phase) (d : Option DevAddr) : State :=
  State.reset.setI2c { State.reset.i2c with en := true, phase := p, dev := d }

/-- A Host that waits for a start it has issued. -/
def waiting : State := (i2cAt .started none).setI2c { (i2cAt .started none).i2c with cmd := .start } |>.setBusy (some .start)

/-- The tick source running. -/
def ticking (gie pend : Bool) (count : Byte) (flag : Bool) : State :=
  (State.reset.setTick { run := true, pend := pend, count := count, flag := flag }).setGie gie

/-- A state about to take the turns `ts`. -/
def withTurns (s : State) (ts : List Turn) : State := { s with turns := ts }

/-- The word `w` first in line and the Host's turn. -/
def hostWith (s : State) (w : OpWord) : State := withTurns (s.setWords [w]) [.host]

/-- The byte `b` first in line and the Dispatcher's turn. -/
def dispatcherWith (s : State) (b : Byte) : State := withTurns (s.setBytes [b]) [.dispatcher]

/-- The same state with a stop pending. -/
def stopping (s : State) : State := s.setI2c { s.i2c with stopPend := true }

/-- A reference slave at 0x1D with the registers `m`, pointing at `ptr`. -/
def slave (m : Memory) (ptr : Byte) (sel rw first awaitAddr : Bool) : RefSlave :=
  { addr := 0x1D, regs := m, ptr := ptr, sel := sel, rw := rw, first := first, awaitAddr := awaitAddr }

/-! ### WellFormed: an ill-formed term for each check -/

theorem test_wellFormed_unit_zero_refused : OpWord.wellFormed 0x0000 = false := by decide
theorem test_wellFormed_unit_five_refused : OpWord.wellFormed 0x5000 = false := by decide
theorem test_wellFormed_fn_over_refused :
    OpWord.wellFormed 0x1200 = false ∧ OpWord.wellFormed 0x2700 = false ∧ OpWord.wellFormed 0x3500 = false ∧
      OpWord.wellFormed 0x4200 = false := by decide
theorem test_wellFormed_level_bits_refused : OpWord.wellFormed 0x1104 = false := by decide
theorem test_wellFormed_arg_refused : OpWord.wellFormed 0x2201 = false ∧ OpWord.wellFormed 0x10FF = false := by decide
theorem test_wellFormed_assigned : OpWord.wellFormed 0x23FF = true ∧ OpWord.wellFormed 0x1103 = true := by decide
theorem test_wellFormed_instr : (Instr.pwmSetduty .high).wellFormed = true ∧ (Instr.i2cWrite 0xFF).wellFormed = true := by
  decide
theorem test_params_top_zero_refused : Params.wellFormed { Params.default with pwmTop := 0 } = false := by decide
theorem test_status_low_bits_refused : StatusTable.wellFormed { StatusTable.default with start := 0x09 } = false := by
  decide
theorem test_status_duplicate_refused : StatusTable.wellFormed { StatusTable.default with start := 0xF8 } = false := by
  decide
theorem test_params_default : Params.wellFormed Params.default = true := by decide

/-! ### Decoding: the words of R84, R86 and R96, written out -/

theorem test_field_split :
    OpFields.ofWord 0b0010001100111010 = ⟨0b0010, 0b0011, 0x3A⟩ ∧ OpFields.ofWord 0x1103 = ⟨1, 1, 3⟩ := by decide
theorem test_decode_pwm :
    decodeOp16 0b0001000000000000 = .op .pwmConfigure ∧ decodeOp16 0b0001000100000000 = .op (.pwmSetduty .off) ∧
      decodeOp16 0b0001000100000001 = .op (.pwmSetduty .low) ∧
      decodeOp16 0b0001000100000010 = .op (.pwmSetduty .medium) ∧
      decodeOp16 0b0001000100000011 = .op (.pwmSetduty .high) := by decide
theorem test_decode_i2c :
    decodeOp16 0b0010000000000000 = .op .i2cInit ∧ decodeOp16 0b0010000100000000 = .op .i2cStart ∧
      decodeOp16 0b0010001000000000 = .op .i2cStop ∧ decodeOp16 0b0010001100111010 = .op (.i2cWrite 0x3A) ∧
      decodeOp16 0b0010010000000000 = .op .i2cReadack ∧ decodeOp16 0b0010010100000000 = .op .i2cReadnack ∧
      decodeOp16 0b0010011000000000 = .op .i2cGetstatus := by decide
theorem test_decode_tick :
    decodeOp16 0b0011000000000000 = .op .tickInit ∧ decodeOp16 0b0011000100000000 = .op .tickRdflag ∧
      decodeOp16 0b0011001000000000 = .op .tickClrflag ∧ decodeOp16 0b0011001100000000 = .op .tickRdcnt ∧
      decodeOp16 0b0011010000000000 = .op .tickTake := by decide
theorem test_decode_irq :
    decodeOp16 0b0100000000000000 = .op .irqEnable ∧ decodeOp16 0b0100000100000000 = .op .irqDisable := by decide
theorem test_decode_cmd :
    decodeC8 0b01110111 = .command .cmdLow ∧ decodeC8 0b01110011 = .command .cmdMed ∧
      decodeC8 0b01010111 = .command .cmdHigh ∧ decodeC8 0b01111000 = .command .cmdOff ∧
      decodeC8 0b01011000 = .command .cmdOff := by decide
/-- V-CMD-1: neighbours of the commands. -/
theorem test_decode_unrecognised :
    decodeC8 0x53 = .unrecognised 0x53 ∧ decodeC8 0xF7 = .unrecognised 0xF7 ∧ decodeC8 0xF8 = .unrecognised 0xF8 ∧
      decodeC8 0x71 = .unrecognised 0x71 ∧ decodeC8 0x00 = .unrecognised 0x00 := by decide
/-- V-DEC-2. -/
theorem test_decode_reserved :
    decodeOp16 0x0000 = .reserved ∧ decodeOp16 0xFFFF = .reserved ∧ decodeOp16 0x1200 = .reserved ∧
      decodeOp16 0x2700 = .reserved ∧ decodeOp16 0x3500 = .reserved ∧ decodeOp16 0x4200 = .reserved ∧
      decodeOp16 0x1104 = .reserved ∧ decodeOp16 0x10FF = .reserved ∧ decodeOp16 0x4001 = .reserved := by decide
theorem test_table_word :
    decodeTableWord 16 0x1103 = some (.pwmSetduty .high) ∧ decodeTableWord 8 0x58 = some .cmdOff ∧
      decodeTableWord 16 0x0000 = none ∧ decodeTableWord 8 0x71 = none ∧ decodeTableWord 24 0x1103 = none := by decide

/-! ### One step of each operation -/

/-- V-PWM-2. -/
theorem test_pwmConfigure : nextAnd (exec .pwmConfigure State.reset) (fun t => decide
    (t.pwm = ⟨true, .fastNonInv, true, 255, 0, 0, 0, .off⟩ ∧ t.pwmOut = .low ∧ State.reset.pwmOut = .z)) = true := by
  decide
/-- V-PWM-9. -/
theorem test_pwmConfigure_again : refusedWith (exec .pwmConfigure pwmOn) .pwmReconfigure = true := by decide
/-- V-PWM-3. -/
theorem test_pwmSetduty : nextAnd (exec (.pwmSetduty .high) pwmOn) (fun t => decide
    (t.pwm.cmpBuf = 204 ∧ t.pwm.level = .high ∧ t.pwm.cmpAct = 0 ∧ t.pwm.cnt = 0)) = true := by decide
theorem test_pwmSetduty_early : refusedWith (exec (.pwmSetduty .low) State.reset) .pwmNotConfigured = true := by decide
/-- V-PWM-1: rows of the table of compare values. -/
theorem test_compare_values :
    compareNat 3 .medium = 1 ∧ compareNat 199 .high = 159 ∧ compareNat 65535 .high = 52428 ∧ compareNat 1 .high = 0 := by
  decide
/-- V-PWM-5. -/
theorem test_pwmTimer_latches :
    (pwmTimerStep (pwmOn.setPwm { configuredPwm 255 with cnt := 255, cmpBuf := 127 })).pwm.cmpAct = 127 := by decide
/-- V-PWM-4: the last high clock and the first low one. -/
theorem test_pwmOut_edge :
    (pwmOn.setPwm { configuredPwm 255 with cnt := 62, cmpAct := 63 }).pwmOut = .high ∧
      (pwmOn.setPwm { configuredPwm 255 with cnt := 63, cmpAct := 63 }).pwmOut = .low := by decide
/-- V-I2C-1. -/
theorem test_i2cInit : nextAnd (exec .i2cInit State.reset) (fun t => decide
    (t.i2c.en = true ∧ t.i2c.phase = .idle ∧ t.i2c.done = false ∧ t.i2c.srCode = 0b11111)) = true := by decide
theorem test_i2cInit_again : refusedWith (exec .i2cInit (i2cAt .idle none)) .i2cReinit = true := by decide
/-- V-I2C-2. -/
theorem test_i2cStart : nextAnd (exec .i2cStart (i2cAt .idle none)) (fun t => decide
    (t.i2c.phase = .started ∧ t.i2c.cmd = .start ∧ t.i2c.done = false ∧ t.busy = some .start ∧ t.trace = [])) = true := by
  decide
/-- V-I2C-3: the repeated start. -/
theorem test_i2cStart_repeated : nextAnd (exec .i2cStart (i2cAt .mt (some 0x1D))) (fun t => decide
    (t.i2c.phase = .repStarted ∧ t.i2c.dev = some 0x1D)) = true := by decide
/-- V-I2C-3. -/
theorem test_i2cStop : nextAnd (exec .i2cStop (i2cAt .mt (some 0x1D))) (fun t => decide
    (t.i2c.phase = .idle ∧ t.i2c.dev = none ∧ t.i2c.stopPend = true ∧ t.trace = [])) = true := by decide
/-- V-DEC-3: the order of the checks. -/
theorem test_i2cStop_refused :
    refusedWith (exec .i2cStop (i2cAt .repStarted (some 0x1D))) .i2cProtocol = true ∧
      refusedWith (exec .i2cStop State.reset) .i2cNotEnabled = true ∧
      refusedWith (presentWord 0x2201 State.reset) .reservedOp = true := by decide
/-- V-I2C-11. -/
theorem test_i2cWrite_address :
    nextAnd (exec (.i2cWrite 0x00) (i2cAt .started none)) (fun t => decide
      (t.i2c.dev = some 0x00 ∧ t.i2c.phase = .mt ∧ t.i2c.txkind = .addrW)) = true ∧
    nextAnd (exec (.i2cWrite 0xFF) (i2cAt .started none)) (fun t => decide
      (t.i2c.dev = some 0x7F ∧ t.i2c.phase = .mr ∧ t.i2c.txkind = .addrR)) = true := by decide
/-- V-I2C-8. -/
theorem test_i2cWrite_target :
    nextAnd (exec (.i2cWrite 0x3B) (i2cAt .repStarted (some 0x1D))) (fun t => decide (t.i2c.phase = .mr)) = true ∧
      refusedWith (exec (.i2cWrite 0x3A) (i2cAt .repStarted (some 0x1D))) .i2cRepStartTarget = true ∧
      refusedWith (exec (.i2cWrite 0x3D) (i2cAt .repStarted (some 0x1D))) .i2cRepStartTarget = true := by decide
/-- V-I2C-3. -/
theorem test_i2cReadack : nextAnd (exec .i2cReadack (i2cAt .mr (some 0x1D))) (fun t => decide
    (t.i2c.phase = .mr ∧ t.i2c.ackEn = true ∧ t.i2c.cmd = .rx ∧ t.busy = some .rxAck)) = true := by decide
/-- V-I2C-7. -/
theorem test_i2cReadack_refused : refusedWith (exec .i2cReadack (i2cAt .mrLast (some 0x1D))) .i2cProtocol = true := by
  decide
/-- V-I2C-3. -/
theorem test_i2cReadnack : nextAnd (exec .i2cReadnack (i2cAt .mr (some 0x1D))) (fun t => decide
    (t.i2c.phase = .mrLast ∧ t.i2c.ackEn = false ∧ t.i2c.cmd = .rx ∧ t.busy = some .rxNack)) = true := by decide
theorem test_i2cReadnack_refused : refusedWith (exec .i2cReadnack (i2cAt .mt (some 0x1D))) .i2cProtocol = true := by
  decide
/-- V-I2C-12. -/
theorem test_i2cGetstatus_masks :
    nextAnd (exec .i2cGetstatus (State.reset.setI2c { State.reset.i2c with srCode := 0b00101, srLow := 0b111 }))
      (fun t => decide (t.completions = [some 0x28])) = true := by decide
/-- V-RST-1. -/
theorem test_i2cGetstatus_reset : nextAnd (exec .i2cGetstatus State.reset) (fun t => decide
    (t.completions = [some 0xF8])) = true := by decide
/-- V-I2C-6: a pending stop goes before a start triggered after it. -/
theorem test_engine_stop_first :
    (engineTurn (.answer .ack 0) (waiting.setI2c { waiting.i2c with stopPend := true })).trace = [.p] := by decide
/-- V-I2C-3: status codes of the address byte and of a received byte. -/
theorem test_engine_status :
    (engineTurn (.answer .nack 0) (waiting.setI2c
      { waiting.i2c with cmd := .tx, txkind := .addrW, phase := .mt, dr := 0x3A })).i2c.srCode = codeOf 0x20 ∧
    (engineTurn (.answer .ack 0x48) (waiting.setI2c { waiting.i2c with cmd := .rx, phase := .mrLast })).trace =
      [.r 0x48 .nack] := by decide
/-- V-TXN-4: the slave's pointer wraps. -/
theorem test_slave_pointer_wraps :
    (slaveRead (slave [(255, 2)] 0xFF true true false false)).1 = 2 ∧
      (slaveRead (slave [(255, 2)] 0xFF true true false false)).2.ptr = 0 := by decide
/-- V-TICK-1. -/
theorem test_tickInit : nextAnd (exec .tickInit State.reset) (fun t => decide
    (t.tick = ⟨true, false, 0, false⟩)) = true := by decide
/-- V-TICK-2. -/
theorem test_tickInit_again : refusedWith (exec .tickInit (ticking false false 0 false)) .tickReinit = true := by decide
theorem test_tickRdflag : nextAnd (exec .tickRdflag (ticking true false 5 true)) (fun t => decide
    (t.completions = [some 0x01] ∧ t.tick.flag = true)) = true := by decide
theorem test_tickClrflag : nextAnd (exec .tickClrflag (ticking true true 5 true)) (fun t => decide
    (t.tick = ⟨true, true, 5, false⟩ ∧ t.completions = [none])) = true := by decide
/-- V-TICK-1. -/
theorem test_tickRdcnt : nextAnd (exec .tickRdcnt (ticking true false 99 false)) (fun t => decide
    (t.completions = [some 0x63])) = true := by decide
/-- V-TICK-2. -/
theorem test_tickTake : nextAnd (exec .tickTake (ticking true false 0 true)) (fun t => decide
    (t.completions = [some 0x01] ∧ t.tick.flag = false)) = true := by decide
/-- V-TICK-1: the hundredth tick. -/
theorem test_handler_hundredth :
    (takeInterrupt (ticking true true 99 false)).tick = ⟨true, false, 0, true⟩ ∧
      (takeInterrupt (ticking true true 98 false)).tick = ⟨true, false, 99, false⟩ := by decide
/-- V-TICK-4. -/
theorem test_irqEnable : nextAnd (exec .irqEnable (ticking false true 10 false)) (fun t => decide
    (t.gie = true ∧ t.tick.pend = true)) = true := by decide
theorem test_irqDisable : nextAnd (exec .irqDisable (ticking true false 10 false)) (fun t => decide
    (t.gie = false)) = true := by decide
/-- V-CMD-1. -/
theorem test_cmdLow : nextAnd (exec .cmdLow pwmOn) (fun t => decide
    (t.pwm.cmpBuf = 63 ∧ t.pwm.level = .low ∧ t.cmdOut = [.ack .low])) = true := by decide
theorem test_cmdMed : nextAnd (exec .cmdMed pwmOn) (fun t => decide
    (t.pwm.cmpBuf = 127 ∧ t.pwm.level = .medium ∧ t.cmdOut = [.ack .medium])) = true := by decide
theorem test_cmdHigh : nextAnd (exec .cmdHigh pwmOn) (fun t => decide
    (t.pwm.cmpBuf = 204 ∧ t.pwm.level = .high ∧ t.cmdOut = [.ack .high])) = true := by decide
theorem test_cmdOff : nextAnd (exec .cmdOff pwmOn) (fun t => decide
    (t.pwm.cmpBuf = 0 ∧ t.pwm.level = .off ∧ t.cmdOut = [.ack .off])) = true := by decide
/-- V-CMD-2. -/
theorem test_cmd_early : refusedWith (exec .cmdLow State.reset) .pwmNotConfigured = true ∧
    nextAnd (dispatchByte 0x71 State.reset) (fun t => decide (t.cmdOut = [.unrec 0x71])) = true := by decide
/-- The host's hooks: a placed word runs first. -/
theorem test_withFetchWord : nextAnd (step (State.reset.withFetchWord 16 0x1000)) (fun t => t.pwm.cfg) = true := by decide
/-- V-TXN-1 and V-TXN-3. -/
theorem test_expansions :
    opWords (regwr 0x1D 0x10 0x48) = [0x2100, 0x233A, 0x2310, 0x2348, 0x2200] ∧
    opWords (burstrd 0x1D 0x28 2) = [0x2100, 0x233A, 0x2328, 0x2100, 0x233B, 0x2400, 0x2500, 0x2200] := by decide
/-- E8: the six bytes of the end-to-end scenario. -/
theorem test_axes : axes [0xE8, 0x03, 0x0C, 0xFE, 0xD0, 0x07] = some (1000, -500, 2000) := by decide
/-- Reset memory (no device attached) and the canonical form. -/
theorem test_memory_canonical :
    State.reset.slave = none ∧ Memory.wf (Memory.write [(7, 3)] 7 0) ∧ Memory.wf (Memory.write [(7, 3)] 255 1) ∧
      ¬Memory.wf [(7, 0)] ∧ ¬Memory.wf [(9, 1), (7, 1)] ∧ ¬Memory.wf [(256, 1)] := by decide

/-! ### The end of a run -/

/-- R282: the five fields do not tell two final states apart; the level and the bus trace do. -/
theorem test_final_state :
    SameFinal pwmOn (pwmOn.setPwm { pwmOn.pwm with cnt := 7, cmpAct := 63 }) ∧
      SameFinal (ticking false false 0 false) (ticking false true 99 true) ∧
      ¬SameFinal pwmOn (pwmOn.setPwm { pwmOn.pwm with level := .high }) ∧ ¬SameFinal pwmOn (pwmOn.emit .p) := by decide
/-- R282: PWM.CONFIGURE alone ends in the configured unit, whatever its timer does; with a stop pending no run is over. -/
theorem test_endsIn :
    EndsIn (hostWith State.reset 0x1000) ((pwmOn.setPwm { pwmOn.pwm with cnt := 9 }).answer none) ∧
      runOver (stopping pwmOn) = false ∧ runOver (ticking true true 0 false) = false ∧
      runOver (ticking false true 0 false) = true :=
  ⟨⟨1, _, rfl, by decide, by decide⟩, by decide, by decide, by decide⟩

/-! ### HALT, the sampling loop and the boot order -/

/-- R246: a halted Host presents no word and takes no byte. -/
theorem test_halt_host :
    nextAnd (step (hostWith pwmOn 0x1103).halt) (fun t => decide (t.words = [0x1103] ∧ t.pwm = pwmOn.pwm)) = true ∧
      nextAnd (step (dispatcherWith pwmOn 0x57).halt) (fun t => decide (t.bytes = [0x57] ∧ t.cmdOut = [])) = true := by
  decide
/-- R246: the timers go on, the flag is set, and a pending stop is performed. -/
theorem test_halt_block :
    nextAnd (step (withTurns pwmOn [.pwmTimer]).halt) (fun t => t.pwm.cnt == 1) = true ∧
      nextAnd (step (withTurns (ticking true true 99 false) [.handler]).halt) (fun t => t.tick.flag) = true ∧
      nextAnd (step (withTurns (stopping (i2cAt .idle none)) [.engine (.answer .ack 0)]).halt)
        (fun t => decide (t.trace = [.p])) = true := by decide

/-- A sampling program with the sensor at 0x1D; the identity is 0xD4. -/
def sampler (consume : Bool) : SamplingConfig where
  sensor := { devAddr := 0x1D, idReg := 0x0F, idExpected := 0xD4, accelCtrlReg := 0x10, gyroCtrlReg := 0x11,
              accelOutBase := 0x28 }
  accel := 0x48
  gyro := 0x4C
  consume := consume
  enable := .afterConfigure

/-- The program at the point `p`, all its operations completed with the results `bs`. -/
def sampled (p : SamplingPoint) (bs : List Byte) : SamplingRun where
  point := p
  mark := 0
  samples := []
  machine := { State.reset with completions := bs.map some }

/-- R172, R246: after the wrong identity the Host is halted; after the right one the configuration follows. -/
theorem test_sampling_identity :
    (samplingAdvance (sampler false) (sampled .boot [0xA4])).point = .halted ∧
      (samplingAdvance (sampler false) (sampled .boot [0xA4])).machine.halted = true ∧
      (samplingAdvance (sampler false) (sampled .boot [0xD4])).machine.words =
        [0x2100, 0x233A, 0x2310, 0x2348, 0x2200, 0x2100, 0x233A, 0x2311, 0x234C, 0x2200, 0x4000] := by decide
/-- R172, R186: the poll repeats until the flag was set; CONSUME clears it first. -/
theorem test_sampling_poll :
    (samplingAdvance (sampler false) (sampled .poll [0x00])).machine.words = [0x3400] ∧
      (samplingAdvance (sampler false) (sampled .poll [0x01])).machine.words =
        [0x2100, 0x233A, 0x2328, 0x2100, 0x233B, 0x2400, 0x2400, 0x2400, 0x2400, 0x2400, 0x2500, 0x2200] ∧
      (samplingAdvance (sampler true) (sampled .poll [0x01])).machine.words = [0x3200] := by decide
/-- R172, E8: a finished burst read gives one sample, and the loop polls again. -/
theorem test_sampling_sample :
    (samplingAdvance (sampler false) (sampled .sample [0xE8, 0x03, 0x0C, 0xFE, 0xD0, 0x07])).samples =
        [(1000, -500, 2000)] ∧
      (samplingAdvance (sampler false) (sampled .sample [0, 0, 0, 0, 0, 0])).machine.words = [0x3400] := by decide
/-- R263: both images of the document keep the order of R262. -/
theorem test_bootOrder_images :
    bootOrder (samplingImage (sampler false)) = true ∧ bootOrder (samplingImage (sampler true)) = true ∧
      bootOrder fanImage = true := by decide
/-- R262: I2C.GETSTATUS needs no initialisation; every other use of a unit needs exactly one, before it. -/
theorem test_bootOrder_init :
    bootOrder ⟨[.i2cGetstatus, .i2cInit, .i2cStart], []⟩ = true ∧ bootOrder ⟨[.i2cStart], []⟩ = false ∧
      bootOrder ⟨[.i2cStart, .i2cInit], []⟩ = false ∧ bootOrder ⟨[.pwmConfigure, .pwmConfigure], []⟩ = false ∧
      bootOrder ⟨[], [.pwmConfigure]⟩ = false := by decide
/-- R262: IRQ.ENABLE after every initialisation and before the main loop. -/
theorem test_bootOrder_enable :
    bootOrder ⟨[.tickInit, .irqEnable], [.tickTake]⟩ = true ∧ bootOrder ⟨[.irqEnable, .tickInit], [.tickTake]⟩ = false ∧
      bootOrder ⟨[.tickInit], [.irqEnable, .tickTake]⟩ = false ∧ bootOrder ⟨[.tickInit], [.tickTake]⟩ = false := by decide

/-! ### Witnesses: every hypothesis of a statement can be met -/

/-- The invariant holds of a waiting Host. -/
theorem witness_inv_waiting : Inv waiting := ⟨by decide, by decide, ⟨rfl, rfl⟩, by decide, rfl, by decide, trivial⟩

/-- The invariant holds of the running tick source. -/
theorem witness_inv_ticking : Inv (ticking true true 99 false) :=
  ⟨by decide, by decide, .inl rfl, by decide, rfl, by decide, trivial⟩

/-- The invariant holds of a configured PWM unit. -/
theorem witness_inv_pwm : Inv pwmOn := ⟨by decide, by decide, .inl rfl, by decide, rfl, by decide, trivial⟩

/-- A Host that waits for the address byte 0x3A it has issued. -/
def sending : State :=
  ((i2cAt .mt (some 0x1D)).setI2c
    { (i2cAt .mt (some 0x1D)).i2c with cmd := .tx, dr := 0x3A, txkind := .addrW }).setBusy (some .tx) |>.emit .s

/-- A Host that waits for a byte; `k` says whether it is to be acknowledged. -/
def receiving (k : Bool) : State :=
  ((i2cAt .mr (some 0x1D)).setI2c { (i2cAt .mr (some 0x1D)).i2c with cmd := .rx, ackEn := k }).setBusy
    (some (if k then .rxAck else .rxNack))

/-- The same state with the completion bit set and nothing pending. -/
def served (s : State) : State := s.setI2c { s.i2c with done := true, cmd := .none }

theorem witness_inv_sending : Inv sending := ⟨by decide, by decide, ⟨rfl, rfl⟩, by decide, rfl, by decide, trivial⟩

theorem witness_ReservedWordSpace : decodeOp16 0x0000 = .reserved ∧ decodeOp16 0x2700 = .reserved := by decide
theorem witness_CommandByteMap : decodeC8 0x71 = .unrecognised 0x71 ∧ decodeC8 0xFF = .unrecognised 0xFF := by decide
theorem witness_HostTurnRunsPresentedOperation :
    (hostWith State.reset 0x1000).turn = .host ∧ handlerDue (hostWith State.reset 0x1000) = false ∧
      (hostWith State.reset 0x1000).busy = none ∧ (hostWith State.reset 0x1000).halted = false ∧ (hostWith State.reset 0x1000).words = [0x1000] ∧
      decodeOp16 0x1000 = .op .pwmConfigure := by decide
theorem witness_DispatcherTurnRunsReceivedByte :
    (dispatcherWith pwmOn 0x77).turn = .dispatcher ∧ handlerDue (dispatcherWith pwmOn 0x77) = false ∧
      (dispatcherWith pwmOn 0x77).busy = none ∧ (dispatcherWith pwmOn 0x77).halted = false ∧ (dispatcherWith pwmOn 0x77).bytes = [0x77] ∧
      (dispatcherWith pwmOn 0x71).bytes = [0x71] ∧ decodeC8 0x77 = .command .cmdLow ∧
      decodeC8 0x71 = .unrecognised 0x71 := by decide
theorem witness_PlacedInstructionRunsNext :
    decodeTableWord 16 0x23FF = some (.i2cWrite 0xFF) ∧ decodeTableWord 8 0x77 = some .cmdLow := by decide
theorem witness_HeldAgentChangesNothing :
    handlerDue (ticking true true 0 false) = true ∧ waiting.busy = some .start ∧ waiting.i2c.done = false ∧
      State.reset.busy = none ∧ State.reset.words = [] ∧ State.reset.bytes = [] ∧
      (hostWith State.reset 0x1000).halt.busy = none ∧ (hostWith State.reset 0x1000).halt.halted = true ∧ State.reset.tick.pend = false ∧
      (ticking false true 0 false).gie = false ∧ State.reset.tick.run = false ∧ State.reset.pwm.cfg = false ∧
      State.reset.i2c.stopPend = false ∧ State.reset.i2c.cmd = .none := by decide
theorem witness_pwm_unit_on_and_off : State.reset.pwm.cfg = false ∧ pwmOn.pwm.cfg = true ∧ pwmOn.pwm.top ≠ 0 := by decide
theorem witness_PwmTimerClock :
    pwmOn.pwm.cfg = true ∧ pwmOn.pwm.cnt ≠ pwmOn.pwm.top ∧
      (pwmOn.setPwm { configuredPwm 255 with cnt := 255 }).pwm.cnt = 255 ∧
      (pwmOn.setPwm { configuredPwm 255 with cnt := 255 }).pwm.top = 255 := by decide
theorem witness_DutyChangeLatency :
    pwmOn.pwm.cfg = true ∧ pwmOn.pwm.cnt ≤ pwmOn.pwm.top ∧ 255 ≤ pwmOn.pwm.top.toNat - pwmOn.pwm.cnt.toNat ∧
      (pwmOn.setPwm { configuredPwm 255 with cnt := 255 }).pwm.cnt ≤ 255 := by decide
theorem witness_WaveformOfOnePeriod :
    pwmOn.pwm.cfg = true ∧ pwmOn.pwm.oe = true ∧ pwmOn.pwm.mode = .fastNonInv ∧ pwmOn.pwm.cnt = 0 ∧
      255 ≤ pwmOn.pwm.top.toNat := by decide
theorem witness_OutputPin :
    State.reset.pwm.oe = false ∧ pwmOn.pwm.oe = true ∧ ¬pwmOn.pwm.cnt < pwmOn.pwm.cmpAct ∧
      (pwmOn.setPwm { configuredPwm 255 with cmpAct := 1 }).pwm.cnt < (1 : Byte) := by decide
theorem witness_i2c_phases :
    State.reset.i2c.en = false ∧ (i2cAt .idle none).i2c.en = true ∧ (i2cAt .idle none).i2c.phase = .idle ∧
      (i2cAt .started none).i2c.phase = .started ∧ (i2cAt .mt (some 0x1D)).i2c.phase = .mt ∧
      (i2cAt .repStarted (some 0x1D)).i2c.phase = .repStarted ∧ (i2cAt .mr (some 0x1D)).i2c.phase = .mr ∧
      (i2cAt .mrLast (some 0x1D)).i2c.phase = .mrLast := by decide
theorem witness_I2cWriteResult :
    (0x3A : Byte).getLsbD 0 = false ∧ (0x3B : Byte).getLsbD 0 = true ∧
      (i2cAt .repStarted (some 0x1D)).i2c.dev = some ((0x3B : Byte).extractLsb' 1 7) ∧
      (i2cAt .repStarted (some 0x1D)).i2c.dev ≠ some ((0x3D : Byte).extractLsb' 1 7) := by decide
theorem witness_WaitingHostCompletesOnDone :
    handlerDue (served waiting) = false ∧ (served waiting).i2c.done = true ∧ (served waiting).busy = some .start ∧
      (served sending).busy = some .tx ∧ (served (receiving true)).busy = some .rxAck ∧
      (served (receiving false)).busy = some .rxNack ∧ waiting.i2c.done = false ∧ waiting.busy ≠ none := by decide
theorem witness_EngineStopStep :
    (stopping waiting).i2c.stopPend = true ∧ busGrants (stopping waiting) (.answer .ack 0) = true ∧
      busGrants (stopping waiting) .withhold = false ∧ (stopping waiting).slave = none := by decide
theorem witness_EngineStartStep :
    waiting.i2c.cmd = .start ∧ waiting.i2c.stopPend = false ∧ busGrants waiting (.answer .ack 0) = true ∧
      busGrants waiting .withhold = false ∧ waiting.i2c.phase = .started ∧
      (waiting.setI2c { waiting.i2c with phase := .repStarted }).i2c.cmd = .start := by decide
theorem witness_EngineTransmitStep :
    sending.i2c.cmd = .tx ∧ sending.i2c.stopPend = false ∧ busAck sending (.answer .nack 0) = some .nack ∧
      busAck sending .withhold = none ∧ sending.slave = none := by decide
theorem witness_EngineReceiveStep :
    (receiving true).i2c.cmd = .rx ∧ (receiving true).i2c.ackEn = true ∧ (receiving false).i2c.ackEn = false ∧
      (receiving false).i2c.stopPend = false ∧ busData (receiving true) (.answer .ack 0xE8) = some 0xE8 ∧
      busData (receiving true) .withhold = none ∧ (receiving false).slave = none := by decide
/-- A slave for each clause, at 0x1D (the address of 0x3A), and one elsewhere. -/
theorem witness_RefSlaveAnswers :
    (sending.setSlave (some (slave [] 0 false false false true))).slave = some (slave [] 0 false false false true) ∧
      sending.i2c.dr.extractLsb' 1 7 = (slave [] 0 false false false true).addr ∧
      (0x3D : Byte).extractLsb' 1 7 ≠ (slave [] 0 false false false true).addr ∧
      (slave [] 0 true false true false).first = true ∧ (slave [] 0xFF true false false false).first = false ∧
      (slave [] 0 true true false false).rw = true ∧ (stopping sending).i2c.stopPend = true ∧
      waiting.i2c.cmd = .start ∧ (receiving true).i2c.cmd = .rx := by decide
theorem witness_SlaveRegisterReadAfterWrite : Memory.wf [(0, 1), (7, 3), (255, 0xFF)] := by decide
theorem witness_WithheldBusHoldsHost :
    (withTurns waiting [.host, .engine .withhold, .pwmTimer]).slave = none ∧
      (withTurns waiting [.host, .engine .withhold, .pwmTimer]).busy = some .start ∧
      (withTurns waiting [.host, .engine .withhold, .pwmTimer]).i2c.done = false ∧
      3 ≤ (withTurns waiting [.host, .engine .withhold, .pwmTimer]).turns.length ∧
      Turn.engine .withhold ≠ .engine (.answer .ack 0) := by decide
theorem witness_ResponsiveBusReleasesHost :
    Inv (withTurns waiting [.tickTimer, .engine (.answer .ack 0), .engine (.answer .nack 1), .handler, .host]) ∧
      waiting.busy ≠ none ∧
      (withTurns waiting [.tickTimer, .engine (.answer .ack 0), .engine (.answer .nack 1), .handler, .host]).turns =
        [.tickTimer] ++ .engine (.answer .ack 0) :: ([] ++ .engine (.answer .nack 1) :: ([] ++ .handler :: .host :: [])) :=
  ⟨⟨by decide, by decide, ⟨rfl, rfl⟩, by decide, rfl, by decide, trivial⟩, by decide, rfl⟩
theorem witness_NotAcknowledgeChangesOnlyStatus :
    sending.i2c.cmd = .tx ∧ sending.i2c.stopPend = false ∧ sending.slave = none := by decide
theorem witness_transactions :
    BusFree (i2cAt .idle none) ∧ (i2cAt .idle none).slave = none ∧
      BusFree ((i2cAt .idle none).setSlave (some (slave [] 0 false false false false))) ∧
      (slave [] 0 false false false false).addr = 0x1D ∧ (slave [] 0 false false false false).addr ≠ 0x1E ∧
      (List.replicate 6 BusAnswer.withhold).length = 0 + 6 ∧ (List.replicate 11 BusAnswer.withhold).length = 5 + 6 := by
  decide
theorem witness_TraceIsPrefixOfTransactions :
    Inv (withTurns sending [.engine (.answer .nack 0)]) ∧
      nextAnd (step (withTurns sending [.engine (.answer .nack 0)])) (fun t => decide (t.trace = [.s, .w 0x3A .nack])) =
        true :=
  ⟨⟨by decide, by decide, ⟨rfl, rfl⟩, by decide, rfl, by decide, trivial⟩, by decide⟩
theorem witness_InvariantKeptByEveryStep :
    Inv (withTurns pwmOn [.pwmTimer]) ∧ nextAnd (step (withTurns pwmOn [.pwmTimer])) (fun t => t.pwm.cnt == 1) = true :=
  ⟨⟨by decide, by decide, .inl rfl, by decide, rfl, by decide, trivial⟩, by decide⟩
theorem witness_NumberedInvariants :
    Inv pwmOn ∧ pwmOn.pwm.cfg = true ∧ Inv waiting ∧ waiting.pwm.cfg = false ∧ waiting.busy = some .start ∧
      waiting.tick.run = false ∧ Inv sending ∧ sending.i2c.cmd = .tx :=
  ⟨witness_inv_pwm, by decide, witness_inv_waiting, by decide, by decide, by decide, witness_inv_sending, by decide⟩
theorem witness_PhaseMovesByTheTable :
    nextAnd (step (hostWith (i2cAt .idle none) 0x2100)) (fun t => t.i2c.phase == .started) = true ∧
      nextAnd (step (hostWith (i2cAt .mt (some 0x1D)) 0x2100)) (fun t => t.i2c.phase == .repStarted) = true ∧
      nextAnd (step (hostWith (i2cAt .started none) 0x233A)) (fun t => t.i2c.phase == .mt) = true ∧
      nextAnd (step (hostWith (i2cAt .started none) 0x233B)) (fun t => t.i2c.phase == .mr) = true ∧
      nextAnd (step (hostWith (i2cAt .repStarted (some 0x1D)) 0x233B)) (fun t => t.i2c.phase == .mr) = true ∧
      nextAnd (step (hostWith (i2cAt .mr (some 0x1D)) 0x2500)) (fun t => t.i2c.phase == .mrLast) = true ∧
      nextAnd (step (hostWith (i2cAt .mrLast (some 0x1D)) 0x2200)) (fun t => t.i2c.phase == .idle) = true := by decide
theorem witness_tick_unit :
    State.reset.tick.run = false ∧ (ticking false false 0 false).tick.run = true ∧
      handlerDue (ticking false false 0 false) = false ∧ (ticking true true 99 false).tick.pend = true ∧
      (ticking true true 99 false).gie = true ∧ (ticking true true 99 false).tick.count.toNat + 1 = 100 ∧
      (ticking true true 98 false).tick.count.toNat + 1 ≠ 100 ∧ (ticking false true 0 false).gie = false := by decide
theorem witness_HandlerGoesFirst :
    (ticking true true 0 false).tick.pend = true ∧ (ticking true true 0 false).gie = true ∧
      ((ticking true true 0 false).setPwm { configuredPwm 255 with cnt := 255 }).pwm.cnt = 255 ∧
      (stopping (ticking true true 0 false)).i2c.stopPend = true ∧ (stopping (ticking true true 0 false)).slave = none := by
  decide
theorem witness_HundredTickCycle :
    (ticking true false 99 false).gie = true ∧ (ticking true false 99 false).tick.run = true ∧
      (ticking true false 99 false).tick.pend = false ∧ (ticking true false 99 false).tick.count.toNat ≤ 99 := by decide
theorem witness_MaskedTicksMerge :
    (ticking false false 98 false).gie = false ∧ (ticking false false 98 false).tick.run = true ∧
      (ticking false false 98 false).tick.count.toNat < 99 ∧ Turn.tickTimer ∈ [Turn.handler, .tickTimer] := by decide
theorem witness_ReadThenClearLosesACycle :
    (ticking true false 99 true).gie = true ∧ (ticking true false 99 true).tick.run = true ∧
      (ticking true false 99 true).tick.pend = false ∧ (ticking true false 99 true).tick.flag = true ∧
      (ticking true false 99 true).tick.count.toNat ≤ 99 ∧ (ticking true false 99 true).busy = none ∧
      (ticking true false 99 true).halted = false := by decide
/-- One step for each clause: the flag set and cleared, the completion bit set and cleared, the pending bit set and taken,
the count moved. -/
theorem witness_FlagWritersAreTheTable :
    nextAnd (step (withTurns (ticking true true 99 false) [.handler])) (fun t => t.tick.flag && !t.tick.pend) = true ∧
      nextAnd (step (hostWith (ticking true false 0 true) 0x3200)) (fun t => !t.tick.flag) = true ∧
      nextAnd (step (withTurns waiting [.engine (.answer .ack 0)])) (fun t => t.i2c.done) = true ∧
      nextAnd (step (hostWith ((served waiting).setBusy none |>.setI2c { (i2cAt .mt none).i2c with done := true }) 0x2200))
        (fun t => !t.i2c.done) = true ∧
      nextAnd (step (withTurns (ticking false false 0 false) [.tickTimer])) (fun t => t.tick.pend) = true ∧
      nextAnd (step (withTurns (ticking true true 5 false) [.handler])) (fun t => t.tick.count == 6) = true := by decide
theorem witness_MaskWrittenOnlyByIrq :
    nextAnd (step (hostWith (ticking false false 0 false) 0x4000)) (fun t => t.gie) = true ∧
      nextAnd (step (hostWith (ticking true false 0 false) 0x4100)) (fun t => !t.gie) = true := by decide
theorem witness_EnablesAreNeverCleared :
    nextAnd (step (withTurns pwmOn [.pwmTimer])) (fun t => t.pwm.cfg) = true ∧
      nextAnd (step (withTurns (i2cAt .idle none) [.host])) (fun t => t.i2c.en) = true ∧
      nextAnd (step (withTurns (ticking true true 5 false) [.handler])) (fun t => t.tick.run) = true ∧
      nextAnd (step (hostWith pwmOn 0x1103).halt) (fun t => t.halted) = true ∧ (hostWith pwmOn 0x1103).halt.busy = none ∧
      (served waiting).halt.halted = true ∧ (served waiting).halt.busy = some .start ∧
      nextAnd (step (withTurns (served waiting) [.host]).halt) (fun t => decide (t.busy = none ∧ t.completions = [none])) =
        true ∧
      nextAnd (step (withTurns waiting [.host]).halt) (fun t => decide (t.busy = some .start ∧ t.completions = [])) = true ∧
      Turn.pwmTimer ≠ .host ∧ Turn.pwmTimer ≠ .dispatcher := by decide
theorem witness_UnitsAreIndependent :
    nextAnd (exec .pwmConfigure State.reset) (fun t => decide (t.pwm ≠ State.reset.pwm)) = true ∧
      nextAnd (exec .i2cStart (i2cAt .idle none)) (fun t => decide (t.i2c ≠ (i2cAt .idle none).i2c)) = true ∧
      nextAnd (exec .tickInit State.reset) (fun t => decide (t.tick ≠ State.reset.tick)) = true ∧
      nextAnd (exec .irqEnable State.reset) (fun t => decide (t.gie ≠ State.reset.gie)) = true := by decide
theorem witness_ResetIsQuiescent : Turn.pwmTimer ≠ .host ∧ Turn.pwmTimer ≠ .dispatcher := by decide
/-- Two states that differ in the counter no rule may read before configuration. -/
theorem witness_UnspecifiedFieldsAreNeverRead :
    SameSpecified State.reset (State.reset.setPwm { Pwm.reset with cnt := 0xFF }) :=
  ⟨rfl, rfl, rfl, rfl, rfl, rfl, rfl, rfl, rfl, rfl, rfl, rfl, rfl, rfl, rfl, rfl, by decide, rfl, rfl, rfl, rfl, rfl, rfl, rfl, rfl,
    by decide, by decide⟩

end Sys2Proof.Tests
end

section
/-! PROOFS. The scope of each step (00_scope.md R2, R8, R13): which unit an operation or an agent writes, and when an agent
has no enabled step. -/

namespace Sys2Proof.Machine

/-! ### What an operation writes (R2) -/

/-- The unit each operation writes: every other field of the state is as before, but for the completion log, the Host's wait
of the sequencer's operations and the dispatcher's notices. The four reading operations write no unit. -/
theorem exec_next_cases {i : Instr} {s t : State} (h : exec i s = .next t) :
    ((i = .pwmConfigure ∨ (∃ l, i = .pwmSetduty l) ∨ i = .cmdLow ∨ i = .cmdMed ∨ i = .cmdHigh ∨ i = .cmdOff) ∧
        ∃ p ns cs, t = { s with pwm := p, cmdOut := ns, completions := cs }) ∨
      ((i = .i2cInit ∨ i = .i2cStart ∨ i = .i2cStop ∨ (∃ b, i = .i2cWrite b) ∨ i = .i2cReadack ∨ i = .i2cReadnack) ∧
        ∃ u w cs, t = { s with i2c := u, busy := w, completions := cs }) ∨
      ((i = .tickInit ∨ i = .tickClrflag ∨ i = .tickTake) ∧ ∃ k cs, t = { s with tick := k, completions := cs }) ∨
      ((i = .irqEnable ∨ i = .irqDisable) ∧ ∃ g cs, t = { s with gie := g, completions := cs }) ∨
      ((i = .i2cGetstatus ∨ i = .tickRdflag ∨ i = .tickRdcnt) ∧ ∃ cs, t = { s with completions := cs }) := by
  cases i with
  | pwmConfigure =>
    obtain ⟨-, rfl⟩ := execPwmConfigure_eq_next.mp h
    exact .inl ⟨by simp, _, _, _, rfl⟩
  | pwmSetduty l =>
    obtain ⟨-, rfl⟩ := execPwmSetduty_eq_next.mp h
    exact .inl ⟨by simp, _, _, _, rfl⟩
  | cmdLow | cmdMed | cmdHigh | cmdOff =>
    obtain ⟨-, rfl⟩ := command_eq_next.mp h
    exact .inl ⟨by simp, _, _, _, rfl⟩
  | i2cInit =>
    obtain ⟨-, rfl⟩ := execI2cInit_eq_next.mp h
    exact .inr (.inl ⟨by simp, _, _, _, rfl⟩)
  | i2cStart =>
    obtain ⟨-, _, -, rfl⟩ := execI2cStart_eq_next.mp h
    exact .inr (.inl ⟨by simp, _, _, _, rfl⟩)
  | i2cStop =>
    obtain ⟨-, _, -, rfl⟩ := execI2cStop_eq_next.mp h
    exact .inr (.inl ⟨by simp, _, _, _, rfl⟩)
  | i2cWrite b =>
    obtain ⟨-, _, -, rfl⟩ := execI2cWrite_eq_next.mp h
    exact .inr (.inl ⟨by simp, _, _, _, rfl⟩)
  | i2cReadack =>
    obtain ⟨-, _, -, rfl⟩ := execI2cReadack_eq_next.mp h
    exact .inr (.inl ⟨by simp, _, _, _, rfl⟩)
  | i2cReadnack =>
    obtain ⟨-, _, -, rfl⟩ := execI2cReadnack_eq_next.mp h
    exact .inr (.inl ⟨by simp, _, _, _, rfl⟩)
  | tickInit =>
    obtain ⟨-, rfl⟩ := execTickInit_eq_next.mp h
    exact .inr (.inr (.inl ⟨by simp, _, _, rfl⟩))
  | tickClrflag =>
    obtain rfl := execTickClrflag_eq_next.mp h
    exact .inr (.inr (.inl ⟨by simp, _, _, rfl⟩))
  | tickTake =>
    obtain rfl := execTickTake_eq_next.mp h
    exact .inr (.inr (.inl ⟨by simp, _, _, rfl⟩))
  | irqEnable =>
    obtain rfl := execIrqEnable_eq_next.mp h
    exact .inr (.inr (.inr (.inl ⟨by simp, _, _, rfl⟩)))
  | irqDisable =>
    obtain rfl := execIrqDisable_eq_next.mp h
    exact .inr (.inr (.inr (.inl ⟨by simp, _, _, rfl⟩)))
  | i2cGetstatus =>
    obtain rfl := execI2cGetstatus_eq_next.mp h
    exact .inr (.inr (.inr (.inr ⟨by simp, _, rfl⟩)))
  | tickRdflag =>
    obtain rfl := execTickRdflag_eq_next.mp h
    exact .inr (.inr (.inr (.inr ⟨by simp, _, rfl⟩)))
  | tickRdcnt =>
    obtain rfl := execTickRdcnt_eq_next.mp h
    exact .inr (.inr (.inr (.inr ⟨by simp, _, rfl⟩)))

/-! ### What an agent writes (R2) -/

theorem takeInterrupt_frame (s : State) : takeInterrupt s = { s with tick := (takeInterrupt s).tick } := by
  rcases takeInterrupt_cases s with ⟨-, h⟩ | ⟨-, h⟩
  · rw [h]; rfl
  · rw [h]

theorem tickTimerStep_frame (s : State) : tickTimerStep s = { s with tick := (tickTimerStep s).tick } := by
  rcases tickTimerStep_cases s with ⟨-, -, h⟩ | h
  · rw [h]; rfl
  · rw [h]

theorem pwmTimerStep_frame (s : State) : pwmTimerStep s = { s with pwm := (pwmTimerStep s).pwm } := by
  rcases pwmTimerStep_cases s with ⟨-, h⟩ | ⟨-, h⟩
  · rw [h]; rfl
  · rw [h]

theorem engStart_frame (s : State) :
    engStart s = { s with i2c := (engStart s).i2c, trace := (engStart s).trace, slave := (engStart s).slave } := by
  unfold engStart
  split <;> rfl

/-- Whichever engine step is performed, it writes the sequencer, the bus trace and the device on the bus alone. -/
theorem engineTurn_frame (a : BusAnswer) (s : State) :
    engineTurn a s = { s with
      i2c := (engineTurn a s).i2c, trace := (engineTurn a s).trace, slave := (engineTurn a s).slave } := by
  rcases engineTurn_cases a s with h | ⟨-, -, h⟩ | ⟨-, -, -, h⟩ | ⟨-, -, _, -, h⟩ | ⟨-, -, _, -, h⟩ <;> rw [h]
  case inr.inr.inl => exact engStart_frame s
  all_goals rfl

/-! ### Turns without an enabled step (R8, R13) -/

theorem completeStep_of_not_done {s : State} (k : WaitKind) (h : s.i2c.done = false) : completeStep k s = s := by
  rcases completeStep_cases k s with ⟨hd, -⟩ | ⟨-, he⟩
  · simp [h] at hd
  · exact he

theorem hostTurn_of_due {s : State} (h : handlerDue s = true) : hostTurn s = .next s := by
  simp [hostTurn, h]

theorem hostTurn_of_waiting {s : State} {k : WaitKind} (hb : s.busy = some k) (hd : s.i2c.done = false) :
    hostTurn s = .next s := by
  simp [hostTurn, hb, completeStep_of_not_done k hd]

theorem hostTurn_of_nothing_to_issue {s : State} (hb : s.busy = none) (h : s.words = [] ∨ s.halted = true) :
    hostTurn s = .next s := by
  rcases h with h | h <;> simp [hostTurn, hb, h]

/-- A Dispatcher step needs no interrupt due, a free port, a byte and a Host that has not halted (R189, R200, R246). -/
theorem dispatcherTurn_held {s : State}
    (h : handlerDue s = true ∨ s.busy ≠ none ∨ s.bytes = [] ∨ s.halted = true) : dispatcherTurn s = .next s := by
  rcases h with h | h | h | h
  · simp [dispatcherTurn, h]
  · simp [dispatcherTurn, Option.isSome_iff_ne_none.mpr h]
  · simp [dispatcherTurn, h]
  · simp [dispatcherTurn, h]

theorem handlerDue_eq_false_iff {s : State} : handlerDue s = false ↔ s.tick.pend = false ∨ s.gie = false := by
  simp only [handlerDue, Bool.and_eq_false_iff]

theorem takeInterrupt_of_not_due {s : State} (h : handlerDue s = false) : takeInterrupt s = s := by
  rcases takeInterrupt_cases s with ⟨hd, -⟩ | ⟨-, he⟩
  · simp [h] at hd
  · exact he

theorem tickTimerStep_held {s : State} (h : s.tick.run = false ∨ handlerDue s = true) : tickTimerStep s = s := by
  rcases tickTimerStep_cases s with ⟨hr, hd, -⟩ | he
  · simp [hr, hd] at h
  · exact he

theorem pwmTimerStep_of_not_configured {s : State} (h : s.pwm.cfg = false) : pwmTimerStep s = s := by
  rcases pwmTimerStep_cases s with ⟨hc, -⟩ | ⟨-, he⟩
  · simp [h] at hc
  · exact he

theorem engineTurn_of_nothing_owed {s : State} (a : BusAnswer) (hp : s.i2c.stopPend = false) (hc : s.i2c.cmd = .none) :
    engineTurn a s = s := by
  simp [engineTurn, hp, hc]

/-- Settles O56: an operation writes the one unit `exec_next_cases` gives it, and each agent's frame names what it writes. -/
theorem unitsAreIndependent : Obligations.UnitsAreIndependent := by
  refine ⟨fun i s t h => ?_, fun s a =>
    ⟨takeInterrupt_frame s, tickTimerStep_frame s, pwmTimerStep_frame s, engineTurn_frame a s⟩⟩
  rcases exec_next_cases h with ⟨hi, _, _, _, rfl⟩ | ⟨hi, _, _, _, rfl⟩ | ⟨hi, _, _, rfl⟩ | ⟨hi, _, _, rfl⟩ | ⟨-, _, rfl⟩
  · exact ⟨fun _ => hi, by simp, by simp, by simp, rfl, rfl⟩
  · exact ⟨by simp, fun _ => hi, by simp, by simp, rfl, rfl⟩
  · exact ⟨by simp, by simp, fun _ => hi, by simp, rfl, rfl⟩
  · exact ⟨by simp, by simp, by simp, fun _ => hi, rfl, rfl⟩
  · exact ⟨by simp, by simp, by simp, by simp, rfl, rfl⟩

/-- Settles O9, agent by agent: a turn whose step is not enabled stutters. -/
theorem heldAgentChangesNothing : Obligations.HeldAgentChangesNothing := by
  intro s
  refine ⟨?host, dispatcherTurn_held, ?handler, ?tickTimer, ?pwmTimer, ?engine⟩
  case host =>
    rintro (hdue | ⟨k, hb, hd⟩ | ⟨hb, h⟩)
    · exact hostTurn_of_due hdue
    · exact hostTurn_of_waiting hb hd
    · exact hostTurn_of_nothing_to_issue hb h
  case handler => exact fun h => congrArg _ (takeInterrupt_of_not_due (handlerDue_eq_false_iff.mpr h))
  case tickTimer => exact fun h => congrArg _ (tickTimerStep_held h)
  case pwmTimer => exact fun h => congrArg _ (pwmTimerStep_of_not_configured h)
  case engine => exact fun ⟨hp, hc⟩ a => congrArg _ (engineTurn_of_nothing_owed a hp hc)

end Sys2Proof.Machine
end

section
/-! PROOFS. What one step can do to the whole machine, agent by agent (00_scope.md R8, R81, R200), and what it leaves
unchanged; the statements about every step start from here. -/

namespace Sys2Proof.Machine

/-- `Move s t`: one step leads from `s` to `t`, told by the agent that makes it and what it does. The Host and the Dispatcher
move only with the port and the interrupt as R81, R189 and R200 ask. -/
inductive Move (s : State) : State → Prop where
  | held : Move s s.turnTaken
  | complete (k : WaitKind) (hb : s.busy = some k) (hd : s.i2c.done = true) :
      Move s ((s.turnTaken.setBusy none).answer (completionRet s.i2c k))
  | issue (i : Instr) (ws : List OpWord) (t : State) (hi : Issues s i) (he : exec i (s.turnTaken.setWords ws) = .next t) :
      Move s t
  | command (b : Byte) (bs : List Byte) (l : DutyLevel) (ht : Takes s b) (hc : s.pwm.cfg = true) :
      Move s (((s.turnTaken.setBytes bs).setPwm { s.pwm with cmpBuf := compareValue s.pwm.top l, level := l }).notify (.ack l))
  | echo (b : Byte) (bs : List Byte) (b' : Byte) (ht : Takes s b) : Move s ((s.turnTaken.setBytes bs).notify (.unrec b'))
  | interrupt (ht : s.turn = .handler) (hd : handlerDue s = true) : Move s (s.turnTaken.setTick (handlerTick s.tick))
  | compare (ht : s.turn = .tickTimer) (hr : s.tick.run = true) :
      Move s (s.turnTaken.setTick { s.tick with pend := true })
  | clock (hc : s.pwm.cfg = true) : Move s (s.turnTaken.setPwm (clockPwm s.pwm))
  | engine (a : BusAnswer) (ht : s.turn = .engine a) : Move s (engineTurn a s.turnTaken)

/-- A command byte runs `command` with the level it stands for (R201 to R204). -/
theorem exec_of_decodeC8 {b : Byte} {i : Instr} (h : decodeC8 b = .command i) : ∃ l, exec i = command l := by
  rcases decodeC8_command h with rfl | rfl | rfl | rfl
  · exact ⟨.low, rfl⟩
  · exact ⟨.medium, rfl⟩
  · exact ⟨.high, rfl⟩
  · exact ⟨.off, rfl⟩

theorem move_of_hostTurn {s t : State} (ht : s.turn = .host) (h : hostTurn s.turnTaken = .next t) : Move s t := by
  rcases hostTurn_cases h with rfl | ⟨-, k, hb, hd, rfl⟩ | ⟨hdue, hb, hh, w, ws, i, hw, hi, he⟩
  · exact .held
  · simpa using Move.complete k (by simpa using hb) (by simpa using hd)
  · exact .issue i ws t ⟨ht, by simpa using hdue, by simpa using hb, by simpa using hh, w, ws, by simpa using hw, hi⟩ he

theorem move_of_dispatcherTurn {s t : State} (ht : s.turn = .dispatcher) (h : dispatcherTurn s.turnTaken = .next t) :
    Move s t := by
  rcases dispatcherTurn_cases h with rfl | ⟨hdue, hb, hh, b, bs, hbs, hr⟩
  · exact .held
  · have htake : Takes s b := ⟨ht, by simpa using hdue, by simpa using hb, by simpa using hh, bs, by simpa using hbs⟩
    rcases hr with ⟨i, hi, he⟩ | ⟨b', -, rfl⟩
    · obtain ⟨l, hl⟩ := exec_of_decodeC8 hi
      rw [hl] at he
      obtain ⟨hc, rfl⟩ := command_eq_next.mp he
      simpa using Move.command b bs l htake (by simpa using hc)
    · exact .echo b bs b' htake

/-- Every step is a move. -/
theorem step_move {s t : State} (h : step s = .next t) : Move s t := by
  rcases step_cases h with ⟨ht, hs⟩ | ⟨ht, hs⟩ | ⟨ht, rfl⟩ | ⟨ht, rfl⟩ | ⟨-, rfl⟩ | ⟨a, ht, rfl⟩
  · exact move_of_hostTurn ht hs
  · exact move_of_dispatcherTurn ht hs
  · rcases takeInterrupt_cases s.turnTaken with ⟨hd, he⟩ | ⟨-, he⟩ <;> rw [he]
    · simpa using Move.interrupt ht (by simpa using hd)
    · exact .held
  · rcases tickTimerStep_cases s.turnTaken with ⟨hr, -, he⟩ | he <;> rw [he]
    · simpa using Move.compare ht (by simpa using hr)
    · exact .held
  · rcases pwmTimerStep_cases s.turnTaken with ⟨hc, he⟩ | ⟨-, he⟩ <;> rw [he]
    · simpa using Move.clock (s := s) (by simpa using hc)
    · exact .held
  · exact .engine a ht

/-! ### What each operation and each engine step does to one unit -/

theorem exec_params {i : Instr} {s t : State} (h : exec i s = .next t) : t.params = s.params := by
  rcases exec_next_cases h with ⟨-, _, _, _, rfl⟩ | ⟨-, _, _, _, rfl⟩ | ⟨-, _, _, rfl⟩ | ⟨-, _, _, rfl⟩ | ⟨-, _, rfl⟩ <;> rfl

/-- The three operations that write the tick source (R181, R183, R185). -/
theorem exec_tick_cases {i : Instr} {s t : State} (h : exec i s = .next t) :
    t.tick = s.tick ∨ (i = .tickInit ∧ s.tick.run = false ∧ t.tick = { s.tick with run := true }) ∨
      ((i = .tickClrflag ∨ i = .tickTake) ∧ t.tick = clearFlag s.tick) := by
  rcases exec_next_cases h with ⟨-, _, _, _, rfl⟩ | ⟨-, _, _, _, rfl⟩ | ⟨hi, -⟩ | ⟨-, _, _, rfl⟩ | ⟨-, _, rfl⟩
  case inr.inr.inl =>
    rcases hi with rfl | rfl | rfl
    · obtain ⟨hr, rfl⟩ := execTickInit_eq_next.mp h
      exact .inr (.inl ⟨rfl, hr, rfl⟩)
    · obtain rfl := execTickClrflag_eq_next.mp h
      exact .inr (.inr ⟨.inl rfl, rfl⟩)
    · obtain rfl := execTickTake_eq_next.mp h
      exact .inr (.inr ⟨.inr rfl, rfl⟩)
  all_goals exact .inl rfl

/-- The two operations that write the mask (R215, R216). -/
theorem exec_gie_cases {i : Instr} {s t : State} (h : exec i s = .next t) :
    t.gie = s.gie ∨ (i = .irqEnable ∧ t.gie = true) ∨ (i = .irqDisable ∧ t.gie = false) := by
  rcases exec_next_cases h with ⟨-, _, _, _, rfl⟩ | ⟨-, _, _, _, rfl⟩ | ⟨-, _, _, rfl⟩ | ⟨hi, -⟩ | ⟨-, _, rfl⟩
  case inr.inr.inr.inl =>
    rcases hi with rfl | rfl
    · obtain rfl := execIrqEnable_eq_next.mp h
      exact .inr (.inl ⟨rfl, rfl⟩)
    · obtain rfl := execIrqDisable_eq_next.mp h
      exact .inr (.inr ⟨rfl, rfl⟩)
  all_goals exact .inl rfl

/-- An operation configures the PWM unit, or writes the compare buffer and the level of a configured one (R101, R104). -/
theorem exec_pwm_cases {i : Instr} {s t : State} (h : exec i s = .next t) :
    t.pwm = s.pwm ∨ (s.pwm.cfg = false ∧ t.pwm = configuredPwm s.params.pwmTop) ∨
      (s.pwm.cfg = true ∧ ∃ l, t.pwm = { s.pwm with cmpBuf := compareValue s.pwm.top l, level := l }) := by
  rcases exec_next_cases h with ⟨hi, -⟩ | ⟨-, _, _, _, rfl⟩ | ⟨-, _, _, rfl⟩ | ⟨-, _, _, rfl⟩ | ⟨-, _, rfl⟩
  case inl =>
    rcases hi with rfl | ⟨l, rfl⟩ | rfl | rfl | rfl | rfl
    · obtain ⟨hc, rfl⟩ := execPwmConfigure_eq_next.mp h
      exact .inr (.inl ⟨hc, rfl⟩)
    · obtain ⟨hc, rfl⟩ := execPwmSetduty_eq_next.mp h
      exact .inr (.inr ⟨hc, l, rfl⟩)
    all_goals
      obtain ⟨hc, rfl⟩ := command_eq_next.mp h
      exact .inr (.inr ⟨hc, _, rfl⟩)
  all_goals exact .inl rfl

/-- The sequencer is enabled once, and five operations clear the completion bit (R39, R122); the rest leave it alone. -/
theorem exec_i2c_cases {i : Instr} {s t : State} (h : exec i s = .next t) :
    t.i2c = s.i2c ∨ (s.i2c.en = false ∧ t.i2c.done = s.i2c.done) ∨
      ((i = .i2cStart ∨ (∃ b, i = .i2cWrite b) ∨ i = .i2cReadack ∨ i = .i2cReadnack ∨ i = .i2cStop) ∧
        t.i2c.done = false ∧ t.i2c.en = s.i2c.en ∧ t.i2c.div = s.i2c.div) := by
  rcases exec_next_cases h with ⟨-, _, _, _, rfl⟩ | ⟨hi, -⟩ | ⟨-, _, _, rfl⟩ | ⟨-, _, _, rfl⟩ | ⟨-, _, rfl⟩
  case inr.inl =>
    rcases hi with rfl | rfl | rfl | ⟨b, rfl⟩ | rfl | rfl
    · obtain ⟨he, rfl⟩ := execI2cInit_eq_next.mp h
      exact .inr (.inl ⟨he, rfl⟩)
    · obtain ⟨-, _, -, rfl⟩ := execI2cStart_eq_next.mp h
      exact .inr (.inr ⟨by simp, rfl, rfl, rfl⟩)
    · obtain ⟨-, _, -, rfl⟩ := execI2cStop_eq_next.mp h
      exact .inr (.inr ⟨by simp, rfl, rfl, rfl⟩)
    · obtain ⟨-, _, -, rfl⟩ := execI2cWrite_eq_next.mp h
      exact .inr (.inr ⟨by simp, rfl, rfl, rfl⟩)
    · obtain ⟨-, _, -, rfl⟩ := execI2cReadack_eq_next.mp h
      exact .inr (.inr ⟨by simp, rfl, rfl, rfl⟩)
    · obtain ⟨-, _, -, rfl⟩ := execI2cReadnack_eq_next.mp h
      exact .inr (.inr ⟨by simp, rfl, rfl, rfl⟩)
  all_goals exact .inl rfl

/-- An engine step leaves alone what the Host has set up: the enable, the divisor and the phase. -/
theorem engineTurn_setup (a : BusAnswer) (s : State) :
    (engineTurn a s).i2c.en = s.i2c.en ∧ (engineTurn a s).i2c.div = s.i2c.div ∧
      (engineTurn a s).i2c.phase = s.i2c.phase := by
  rcases engineTurn_cases a s with h | ⟨-, -, h⟩ | ⟨-, -, -, h⟩ | ⟨-, -, _, -, h⟩ | ⟨-, -, _, -, h⟩ <;> rw [h]
  case inr.inr.inl => unfold engStart; split <;> exact ⟨rfl, rfl, rfl⟩
  all_goals exact ⟨rfl, rfl, rfl⟩

/-- The completion bit rises with a performed command and never falls in an engine step (R140 to R143). -/
theorem engineTurn_done_cases (a : BusAnswer) (s : State) :
    (engineTurn a s).i2c.done = s.i2c.done ∨
      ((engineTurn a s).i2c.done = true ∧ (s.i2c.cmd = .start ∨ s.i2c.cmd = .tx ∨ s.i2c.cmd = .rx)) := by
  rcases engineTurn_cases a s with h | ⟨-, -, h⟩ | ⟨-, hc, -, h⟩ | ⟨-, hc, _, -, h⟩ | ⟨-, hc, _, -, h⟩ <;> rw [h]
  · exact .inl rfl
  · exact .inl rfl
  · refine .inr ⟨?_, .inl hc⟩
    unfold engStart
    split <;> rfl
  · exact .inr ⟨rfl, .inr (.inl hc)⟩
  · exact .inr ⟨rfl, .inr (.inr hc)⟩

/-! ### What a step does to one unit -/

theorem step_params {s t : State} (h : step s = .next t) : t.params = s.params := by
  cases step_move h with
  | issue i ws t hi he => simpa using exec_params he
  | engine a ht => rw [engineTurn_frame]; simp
  | _ => simp

/-- Every change of the tick source has its writer (R22, R47 to R50). -/
theorem step_tick_cases {s t : State} (h : step s = .next t) :
    t.tick = s.tick ∨ (s.tick.run = false ∧ t.tick = { s.tick with run := true }) ∨
      ((Issues s .tickClrflag ∨ Issues s .tickTake) ∧ t.tick = clearFlag s.tick) ∨
      (s.turn = .handler ∧ handlerDue s = true ∧ t.tick = handlerTick s.tick) ∨
      (s.turn = .tickTimer ∧ s.tick.run = true ∧ t.tick = { s.tick with pend := true }) := by
  cases step_move h with
  | issue i ws t hi he =>
    rcases exec_tick_cases he with ht | ⟨-, hr, ht⟩ | ⟨rfl | rfl, ht⟩
    · exact .inl (by simpa using ht)
    · exact .inr (.inl ⟨by simpa using hr, by simpa using ht⟩)
    · exact .inr (.inr (.inl ⟨.inl hi, by simpa using ht⟩))
    · exact .inr (.inr (.inl ⟨.inr hi, by simpa using ht⟩))
  | interrupt ht hd => exact .inr (.inr (.inr (.inl ⟨ht, hd, rfl⟩)))
  | compare ht hr => exact .inr (.inr (.inr (.inr ⟨ht, hr, rfl⟩)))
  | engine a ht => left; rw [engineTurn_frame]; simp
  | _ => left; simp

/-- Every change of the mask is an issued mask operation (R23). -/
theorem step_gie_cases {s t : State} (h : step s = .next t) :
    t.gie = s.gie ∨ (t.gie = true ∧ Issues s .irqEnable) ∨ (t.gie = false ∧ Issues s .irqDisable) := by
  cases step_move h with
  | issue i ws t hi he =>
    rcases exec_gie_cases he with hg | ⟨rfl, hg⟩ | ⟨rfl, hg⟩
    · exact .inl (by simpa using hg)
    · exact .inr (.inl ⟨hg, hi⟩)
    · exact .inr (.inr ⟨hg, hi⟩)
  | engine a ht => left; rw [engineTurn_frame]; simp
  | _ => left; simp

/-- The PWM unit is configured once; from then on a step writes the duty of a running Host, or is one timer clock (R25 to
R32). -/
theorem step_pwm_cases {s t : State} (h : step s = .next t) :
    t.pwm = s.pwm ∨ (s.pwm.cfg = false ∧ t.pwm = configuredPwm s.params.pwmTop) ∨
      (s.pwm.cfg = true ∧ ∃ l, t.pwm = { s.pwm with cmpBuf := compareValue s.pwm.top l, level := l }) ∨
      (s.pwm.cfg = true ∧ t.pwm = clockPwm s.pwm) := by
  cases step_move h with
  | issue i ws t hi he =>
    rcases exec_pwm_cases he with hp | ⟨hc, hp⟩ | ⟨hc, l, hp⟩
    · exact .inl (by simpa using hp)
    · exact .inr (.inl ⟨by simpa using hc, by simpa using hp⟩)
    · exact .inr (.inr (.inl ⟨by simpa using hc, l, by simpa using hp⟩))
  | command b bs l ht hc => exact .inr (.inr (.inl ⟨hc, l, rfl⟩))
  | clock hc => exact .inr (.inr (.inr ⟨hc, rfl⟩))
  | engine a ht => left; rw [engineTurn_frame]; simp
  | _ => left; simp

/-- Every change of the completion bit has its writer (R39), and the enable and the divisor change only once (R34, R35). -/
theorem step_i2c_cases {s t : State} (h : step s = .next t) :
    t.i2c = s.i2c ∨ (s.i2c.en = false ∧ t.i2c.done = s.i2c.done) ∨
      ((Issues s .i2cStart ∨ (∃ b, Issues s (.i2cWrite b)) ∨ Issues s .i2cReadack ∨ Issues s .i2cReadnack ∨
          Issues s .i2cStop) ∧
        t.i2c.done = false ∧ t.i2c.en = s.i2c.en ∧ t.i2c.div = s.i2c.div) ∨
      (∃ a, s.turn = .engine a ∧ t = engineTurn a s.turnTaken) := by
  cases step_move h with
  | issue i ws t hi he =>
    rcases exec_i2c_cases he with hu | ⟨hen, hd⟩ | ⟨hop, hd, hen, hv⟩
    · exact .inl (by simpa using hu)
    · exact .inr (.inl ⟨by simpa using hen, by simpa using hd⟩)
    · refine .inr (.inr (.inl ⟨?_, hd, by simpa using hen, by simpa using hv⟩))
      rcases hop with rfl | ⟨b, rfl⟩ | rfl | rfl | rfl
      · exact .inl hi
      · exact .inr (.inl ⟨b, hi⟩)
      · exact .inr (.inr (.inl hi))
      · exact .inr (.inr (.inr (.inl hi)))
      · exact .inr (.inr (.inr (.inr hi)))
  | engine a ht => exact .inr (.inr (.inr ⟨a, ht, rfl⟩))
  | _ => left; simp

end Sys2Proof.Machine
end

section
/-! PROOFS. The invariant of the block (10_state.md R52, 41_i2c.md R148) holds after reset and is kept by every step, unit by
unit: the PWM unit and the tick source by what a step does to them, the sequencer with the bus operation by operation. -/

namespace Sys2Proof.Machine

/-! ### The PWM unit (R52 items 1 and 2) -/

/-- The compare value is at most the top, so it fits its register (R105). -/
theorem compareNat_le (top : Nat) (l : DutyLevel) : compareNat top l ≤ top := by
  have hl : pct l ≤ 100 := by cases l <;> decide
  exact Nat.div_le_of_le_mul (by rw [Nat.mul_comm 100]; exact Nat.mul_le_mul_left top hl)

theorem compareValue_toNat (top : Byte) (l : DutyLevel) : (compareValue top l).toNat = compareNat top.toNat l := by
  have hle := compareNat_le top.toNat l
  have htop := top.isLt
  rw [compareValue, BitVec.toNat_ofNat, Nat.mod_eq_of_lt (by omega)]

theorem compareValue_le (top : Byte) (l : DutyLevel) : compareValue top l ≤ top := by
  rw [BitVec.le_def, compareValue_toNat]
  exact compareNat_le _ _

/-- One clock keeps the counter and the latched compare value within the top (R108). -/
theorem clockPwm_le {p : Pwm} (hb : p.cmpBuf ≤ p.top) (ha : p.cmpAct ≤ p.top) (hn : p.cnt ≤ p.top) :
    (clockPwm p).cmpAct ≤ p.top ∧ (clockPwm p).cnt ≤ p.top := by
  rcases clockPwm_cases p with ⟨-, h⟩ | ⟨hne, h⟩ <;> rw [h]
  · exact ⟨hb, by bv_omega⟩
  · exact ⟨ha, by bv_omega⟩

/-- A clock writes the counter and the latched compare value alone. -/
theorem clockPwm_frame (p : Pwm) : clockPwm p = { p with cnt := (clockPwm p).cnt, cmpAct := (clockPwm p).cmpAct } := by
  rcases clockPwm_cases p with ⟨-, h⟩ | ⟨-, h⟩ <;> rw [h]

theorem step_keeps_pwmInv {s t : State} (hi : PwmInv s) (h : step s = .next t) : PwmInv t := by
  have hp := step_params h
  rcases step_pwm_cases h with he | ⟨-, he⟩ | ⟨hc, l, he⟩ | ⟨hc, he⟩
  · simpa only [PwmInv, he, hp] using hi
  · simp [PwmInv, he, hp, configuredPwm, pct, BitVec.le_def]
  · obtain ⟨hm, ho, ht, -, ha, hn, -⟩ := hi.1 hc
    have hv : (compareValue s.pwm.top l).toNat = s.pwm.top.toNat * pct l / 100 := compareValue_toNat _ _
    simpa [PwmInv, he, hp, hc, hm, ho, ha, hn, hv, ← ht] using compareValue_le s.pwm.top l
  · obtain ⟨hm, ho, ht, hb, ha, hn, hv⟩ := hi.1 hc
    obtain ⟨ha', hn'⟩ := clockPwm_le hb ha hn
    rw [clockPwm_frame] at he
    simp [PwmInv, he, hp, hc, hm, ho, hb, hv, ha', hn', ← ht]

/-! ### The tick source (R52 items 3 and 7) -/

/-- A tick below the hundredth stays within the range of the counter (R49). -/
theorem handlerTick_count_le {t : Tick} (h : t.count ≤ 99) : (handlerTick t).count ≤ 99 := by
  rcases handlerTick_cases t with ⟨-, he⟩ | ⟨hne, he⟩ <;> rw [he]
  · exact (by decide : (0 : Byte) ≤ 99)
  · show t.count + 1 ≤ 99
    bv_omega

theorem handlerTick_run (t : Tick) : (handlerTick t).run = t.run := by
  rcases handlerTick_cases t with ⟨-, h⟩ | ⟨-, h⟩ <;> rw [h]

/-- A due interrupt and a compare event both need the source to run, so a stopped one stays as reset left it (R47). -/
theorem step_keeps_tickInv {s t : State} (hi : TickInv s) (h : step s = .next t) : TickInv t := by
  obtain ⟨hcount, hstop⟩ := hi
  rcases step_tick_cases h with he | ⟨-, he⟩ | ⟨-, he⟩ | ⟨-, hd, he⟩ | ⟨-, hr, he⟩
  · simpa only [TickInv, he] using ⟨hcount, hstop⟩
  · exact ⟨by rw [he]; exact hcount, by simp [he]⟩
  · refine ⟨by simpa [he, clearFlag] using hcount, fun hr => ?_⟩
    obtain ⟨hp, hc, -⟩ := hstop (by simpa [he, clearFlag] using hr)
    simp [he, clearFlag, hp, hc]
  · refine ⟨by rw [he]; exact handlerTick_count_le hcount, fun hr => ?_⟩
    rw [he, handlerTick_run] at hr
    simp [handlerDue, (hstop hr).1] at hd
  · refine ⟨by rw [he]; exact hcount, fun hr' => ?_⟩
    rw [he] at hr'
    simp [hr] at hr'

/-! ### Where the trace stands (R148) -/

theorem tracePos_append (tr : List BusEvent) (e : BusEvent) :
    tracePos (tr ++ [e]) = (tracePos tr).bind (tracePosStep · e) := by
  simp [tracePos]

theorem traceInv_iff {s : State} : TraceInv s ↔ ∃ p, tracePos s.trace = some p ∧ posMatches s.i2c p = true := by
  unfold TraceInv
  cases tracePos s.trace <;> simp

/-- Where the trace stands when the engine has nothing to perform: where the phase says. -/
def restPos (phase : Phase) (dev : Option DevAddr) : Option TracePos :=
  match phase with
  | .idle => some .idle
  | .started => some .started
  | .mt => dev.map .mt
  | .repStarted => dev.map .repStarted
  | .mr => some .mr
  | .mrLast => some .mrLast

theorem restPos_mt_eq_some {dev : Option DevAddr} {p : TracePos} :
    restPos .mt dev = some p ↔ ∃ d, dev = some d ∧ p = .mt d := by
  simp [restPos, eq_comm]

section
variable {i : I2c} {p : TracePos}

theorem posMatches_of_stopPend (hs : i.stopPend = true) :
    posMatches i p = true ↔ ((∃ d, p = .mt d) ∨ p = .mrLast) ∧
      (i.cmd = .none ∧ i.phase = .idle ∨ i.cmd = .start ∧ i.phase = .started) := by
  cases p <;> simp [posMatches, hs]

theorem posMatches_of_none (hs : i.stopPend = false) (hc : i.cmd = .none) :
    posMatches i p = true ↔ restPos i.phase i.dev = some p := by
  cases hp : i.phase <;> simp [posMatches, restPos, hs, hc, hp, eq_comm]

theorem posMatches_of_start (hs : i.stopPend = false) (hc : i.cmd = .start) :
    posMatches i p = true ↔
      (i.phase = .started ∧ p = .idle) ∨ (i.phase = .repStarted ∧ restPos .mt i.dev = some p) := by
  cases hp : i.phase <;> simp [posMatches, restPos, hs, hc, hp]

theorem posMatches_of_tx (hs : i.stopPend = false) (hc : i.cmd = .tx) :
    posMatches i p = true ↔
      (i.phase = .mt ∧ i.txkind = .addrW ∧ p = .started ∧ isRead i.dr = false ∧ i.dev = some (deviceOf i.dr)) ∨
      (i.phase = .mt ∧ i.txkind = .data ∧ restPos .mt i.dev = some p) ∨
      (i.phase = .mr ∧ i.txkind = .addrR ∧ isRead i.dr = true ∧ i.dev = some (deviceOf i.dr) ∧
        (p = .started ∨ p = .repStarted (deviceOf i.dr))) := by
  cases hp : i.phase <;> simp [posMatches, restPos, hs, hc, hp, and_assoc]

theorem posMatches_of_rx (hs : i.stopPend = false) (hc : i.cmd = .rx) :
    posMatches i p = true ↔
      p = .mr ∧ (i.phase = .mr ∧ i.ackEn = true ∨ i.phase = .mrLast ∧ i.ackEn = false) := by
  cases hp : i.phase <;> simp [posMatches, hs, hc, hp, and_comm]

end

/-! ### The sequencer with the bus (R52 items 4 to 6) -/

/-- The part of the invariant that speaks of the sequencer, the waiting Host, the trace and the attached device. -/
structure BusInv (s : State) : Prop where
  wait : WaitInv s
  dev : DevInv s
  trace : TraceInv s
  code : CodeInv s
  slave : SlaveInv s

theorem inv_iff {s : State} : Inv s ↔ PwmInv s ∧ TickInv s ∧ BusInv s :=
  ⟨fun h => ⟨h.pwm, h.tick, h.wait, h.dev, h.trace, h.code, h.slave⟩,
    fun ⟨hp, ht, hb⟩ => ⟨hp, ht, hb.wait, hb.dev, hb.trace, hb.code, hb.slave⟩⟩

theorem BusInv.congr {s t : State} (h : BusInv s) (hu : t.i2c = s.i2c) (hb : t.busy = s.busy) (ht : t.trace = s.trace)
    (hv : t.slave = s.slave) (hp : t.params = s.params) : BusInv t where
  wait := by simpa only [WaitInv, hu, hb] using h.wait
  dev := by simpa only [DevInv, hu] using h.dev
  trace := by simpa only [TraceInv, hu, ht] using h.trace
  code := by simpa only [CodeInv, hu, hp] using h.code
  slave := by simpa only [SlaveInv, hv] using h.slave

/-- A free port means that no command is pending (R52 item 4). -/
theorem WaitInv.cmd_of_free {s : State} (h : WaitInv s) (hb : s.busy = none) : s.i2c.cmd = .none := by
  unfold WaitInv at h
  split at h <;> simp_all

/-- A set completion bit means that no command is pending (R39). -/
theorem WaitInv.cmd_of_done {s : State} (h : WaitInv s) (hd : s.i2c.done = true) : s.i2c.cmd = .none := by
  unfold WaitInv at h
  split at h <;> simp_all

theorem WaitInv.of_none {s : State} (hc : s.i2c.cmd = .none) (h : s.busy = none ∨ s.i2c.done = true) : WaitInv s := by
  unfold WaitInv
  rw [hc]
  exact h

/-- The waiting Host completes: with the bit set nothing is pending any more (R81). -/
theorem BusInv.complete {s : State} (h : BusInv s) (hd : s.i2c.done = true) : BusInv (s.setBusy none) :=
  ⟨.of_none (h.wait.cmd_of_done hd) (.inl rfl), h.dev, h.trace, h.code, h.slave⟩

/-- What an operation on the sequencer owes: it answers for the wait and the device, and the trace, which it does not move,
stands where the new state says. -/
theorem BusInv.setI2c {s : State} {i : I2c} {w : Option WaitKind} (h : BusInv s) (hw : WaitInv ((s.setI2c i).setBusy w))
    (hd : i.dev = none ↔ (i.phase = .idle ∨ i.phase = .started))
    (ht : ∀ p, posMatches s.i2c p = true → posMatches i p = true) (hc : i.srCode = s.i2c.srCode) :
    BusInv ((s.setI2c i).setBusy w) where
  wait := hw
  dev := hd
  trace := by
    obtain ⟨p, hp, hm⟩ := traceInv_iff.mp h.trace
    exact traceInv_iff.mpr ⟨p, hp, ht p hm⟩
  code := by simpa [CodeInv, hc] using h.code
  slave := h.slave

theorem startPhase_eq_some {q p : Phase} :
    startPhase q = some p ↔ (q = .idle ∧ p = .started) ∨ (q = .mt ∧ p = .repStarted) := by
  cases q <;> simp [startPhase, eq_comm]

theorem stopPhase_eq_some {q p : Phase} : stopPhase q = some p ↔ (q = .mt ∨ q = .mrLast) ∧ p = .idle := by
  cases q <;> simp [stopPhase, eq_comm]

theorem readAckPhase_eq_some {q p : Phase} : readAckPhase q = some p ↔ q = .mr ∧ p = .mr := by
  cases q <;> simp [readAckPhase, eq_comm]

theorem readNackPhase_eq_some {q p : Phase} : readNackPhase q = some p ↔ q = .mr ∧ p = .mrLast := by
  cases q <;> simp [readNackPhase, eq_comm]

theorem writeEffect_eq_ok {q : Phase} {d : Option DevAddr} {b : Byte} {e : WriteEffect} :
    writeEffect q d b = .ok e ↔
      (q = .started ∧ isRead b = true ∧ e = ⟨.mr, some (deviceOf b), .addrR⟩) ∨
      (q = .started ∧ isRead b = false ∧ e = ⟨.mt, some (deviceOf b), .addrW⟩) ∨
      (q = .repStarted ∧ isRead b = true ∧ d = some (deviceOf b) ∧ e = ⟨.mr, d, .addrR⟩) ∨
      (q = .mt ∧ e = ⟨.mt, d, .data⟩) := by
  cases q with
  | started => cases hr : isRead b <;> simp [writeEffect, addressWrite, hr, @eq_comm WriteEffect]
  | repStarted =>
    by_cases hc : isRead b = true ∧ d = some (deviceOf b)
    · simp [writeEffect, hc, @eq_comm WriteEffect]
    · simp only [writeEffect, if_neg hc]
      simp
      tauto
  | mt => simp [writeEffect, @eq_comm WriteEffect]
  | idle | mr | mrLast => simp [writeEffect]

section
variable {s : State}

/-- With the port free, only in phase Idle can a stop be pending (R127). -/
theorem BusInv.stopPend_of_phase (h : BusInv s) (hb : s.busy = none) (hp : s.i2c.phase ≠ .idle) : s.i2c.stopPend = false := by
  obtain ⟨p, -, hm⟩ := traceInv_iff.mp h.trace
  by_contra hs
  rcases ((posMatches_of_stopPend (by simpa using hs)).mp hm).2 with ⟨-, hi⟩ | ⟨hc, -⟩
  · exact hp hi
  · simp [h.wait.cmd_of_free hb] at hc

/-- With the port free and a transaction open, the trace stands where the phase says. -/
theorem BusInv.restPos_of_free (h : BusInv s) (hb : s.busy = none) (hp : s.i2c.phase ≠ .idle) {p : TracePos}
    (hm : posMatches s.i2c p = true) : restPos s.i2c.phase s.i2c.dev = some p :=
  (posMatches_of_none (h.stopPend_of_phase hb hp) (h.wait.cmd_of_free hb)).mp hm

/-- I2C.START (R124): from Idle it may stand behind a stop that the engine has still to perform. -/
theorem BusInv.start {p : Phase} (h : BusInv s) (hb : s.busy = none) (hp : startPhase s.i2c.phase = some p) :
    BusInv ((s.setI2c (trigger { s.i2c with phase := p } .start)).setBusy (some .start)) := by
  have hc := h.wait.cmd_of_free hb
  have hdev := h.dev
  rcases startPhase_eq_some.mp hp with ⟨hq, rfl⟩ | ⟨hq, rfl⟩
  · refine h.setI2c ⟨rfl, rfl⟩ (by simpa [DevInv, hq, trigger] using hdev) (fun r hm => ?_) rfl
    cases hs : s.i2c.stopPend with
    | false =>
      have hr := (posMatches_of_none hs hc).mp hm
      exact Iff.mpr (posMatches_of_start hs rfl) (.inl ⟨rfl, by simpa [hq, restPos, eq_comm] using hr⟩)
    | true => exact Iff.mpr (posMatches_of_stopPend hs) ⟨((posMatches_of_stopPend hs).mp hm).1, .inr ⟨rfl, rfl⟩⟩
  · refine h.setI2c ⟨rfl, rfl⟩ (by simpa [DevInv, hq, trigger] using hdev) (fun r hm => ?_) rfl
    have hr := h.restPos_of_free hb (by simp [hq]) hm
    exact Iff.mpr (posMatches_of_start (h.stopPend_of_phase hb (by simp [hq])) rfl) (.inr ⟨rfl, by rwa [hq] at hr⟩)

/-- I2C.STOP (R127): the trace stands inside a transaction that a stop may end. -/
theorem BusInv.stop {p : Phase} (h : BusInv s) (hb : s.busy = none) (hp : stopPhase s.i2c.phase = some p) :
    BusInv (s.setI2c { s.i2c with done := false, stopPend := true, phase := p, dev := none }) := by
  have hc := h.wait.cmd_of_free hb
  obtain ⟨hq, rfl⟩ := stopPhase_eq_some.mp hp
  show BusInv ((s.setI2c { s.i2c with done := false, stopPend := true, phase := .idle, dev := none }).setBusy s.busy)
  refine h.setI2c (.of_none hc (.inl hb)) (by simp) (fun r hm => ?_) rfl
  refine (posMatches_of_stopPend rfl).mpr ⟨?_, .inl ⟨hc, rfl⟩⟩
  have hr := h.restPos_of_free hb (by rcases hq with hq | hq <;> simp [hq]) hm
  rcases hq with hq | hq
  · obtain ⟨d, -, rfl⟩ := restPos_mt_eq_some.mp (hq ▸ hr)
    exact .inl ⟨d, rfl⟩
  · exact .inr (by simpa [hq, restPos, eq_comm] using hr)

/-- I2C.WRITE (R130): an address byte after a start, the read address of the same device after a repeated one, or data. -/
theorem BusInv.write {b : Byte} {e : WriteEffect} (h : BusInv s) (hb : s.busy = none)
    (he : writeEffect s.i2c.phase s.i2c.dev b = .ok e) :
    BusInv ((s.setI2c (trigger { s.i2c with dr := b, txkind := e.kind, phase := e.phase, dev := e.dev } .tx)).setBusy
      (some .tx)) := by
  have hdev := h.dev
  have hne : s.i2c.phase ≠ .idle := fun hq => by simp [hq, writeEffect] at he
  have hs := h.stopPend_of_phase hb hne
  have hrest {r : TracePos} : posMatches s.i2c r = true → restPos s.i2c.phase s.i2c.dev = some r := h.restPos_of_free hb hne
  rcases writeEffect_eq_ok.mp he with ⟨hq, hr, rfl⟩ | ⟨hq, hr, rfl⟩ | ⟨hq, hr, hd, rfl⟩ | ⟨hq, rfl⟩ <;>
    rw [hq] at hrest
  · refine h.setI2c ⟨rfl, rfl⟩ (by simp [trigger]) (fun r hm => Iff.mpr (posMatches_of_tx hs rfl) ?_) rfl
    exact .inr (.inr ⟨rfl, rfl, hr, rfl, .inl (Option.some.inj (hrest hm)).symm⟩)
  · refine h.setI2c ⟨rfl, rfl⟩ (by simp [trigger]) (fun r hm => Iff.mpr (posMatches_of_tx hs rfl) ?_) rfl
    exact .inl ⟨rfl, rfl, (Option.some.inj (hrest hm)).symm, hr, rfl⟩
  · rw [hd] at hrest
    refine h.setI2c ⟨rfl, rfl⟩ (by simp [trigger, hd]) (fun r hm => Iff.mpr (posMatches_of_tx hs rfl) ?_) rfl
    exact .inr (.inr ⟨rfl, rfl, hr, hd, .inr (Option.some.inj (hrest hm)).symm⟩)
  · refine h.setI2c ⟨rfl, rfl⟩ (by simpa [DevInv, hq, trigger] using hdev)
      (fun r hm => Iff.mpr (posMatches_of_tx hs rfl) ?_) rfl
    exact .inr (.inl ⟨rfl, rfl, hrest hm⟩)

/-- I2C.READACK and I2C.READNACK (R133, R135): the read that acknowledges goes on, the other one is the last. -/
theorem BusInv.read {p : Phase} {k : Bool} (h : BusInv s) (hb : s.busy = none) (hq : s.i2c.phase = .mr)
    (hp : p = if k then .mr else .mrLast) :
    BusInv ((s.setI2c (trigger { s.i2c with ackEn := k, phase := p } .rx)).setBusy
      (some (if k then .rxAck else .rxNack))) := by
  have hdev := h.dev
  have hne : s.i2c.phase ≠ .idle := by simp [hq]
  refine h.setI2c ⟨rfl, rfl⟩ ?_ (fun r hm => Iff.mpr (posMatches_of_rx (h.stopPend_of_phase hb hne) rfl) ?_) rfl
  · cases k <;> simpa [DevInv, hq, hp, trigger] using hdev
  · have hrest := h.restPos_of_free hb hne hm
    exact ⟨by simpa [hq, restPos, eq_comm] using hrest, by cases k <;> simp [hp, trigger]⟩

end

/-- An operation issued with the port free keeps it, whatever the unit it writes. -/
theorem exec_keeps_busInv {i : Instr} {s t : State} (h : BusInv s) (hb : s.busy = none) (he : exec i s = .next t) :
    BusInv t := by
  rcases exec_next_cases he with ⟨-, _, _, _, rfl⟩ | ⟨hi, -⟩ | ⟨-, _, _, rfl⟩ | ⟨-, _, _, rfl⟩ | ⟨-, _, rfl⟩
  case inr.inl =>
    rcases hi with rfl | rfl | rfl | ⟨b, rfl⟩ | rfl | rfl
    · obtain ⟨-, rfl⟩ := execI2cInit_eq_next.mp he
      exact ⟨h.wait, h.dev, h.trace, h.code, h.slave⟩
    · obtain ⟨-, p, hp, rfl⟩ := execI2cStart_eq_next.mp he
      exact h.start hb hp
    · obtain ⟨-, p, hp, rfl⟩ := execI2cStop_eq_next.mp he
      exact (h.stop hb hp).congr rfl rfl rfl rfl rfl
    · obtain ⟨-, e, hw, rfl⟩ := execI2cWrite_eq_next.mp he
      exact h.write hb hw
    · obtain ⟨-, p, hp, rfl⟩ := execI2cReadack_eq_next.mp he
      obtain ⟨hq, hp⟩ := readAckPhase_eq_some.mp hp
      exact h.read (k := true) hb hq hp
    · obtain ⟨-, p, hp, rfl⟩ := execI2cReadnack_eq_next.mp he
      obtain ⟨hq, hp⟩ := readNackPhase_eq_some.mp hp
      exact h.read (k := false) hb hq hp
  all_goals exact h.congr rfl rfl rfl rfl rfl

/-! ### The engine (R140 to R143) -/

theorem slaveInv_map {s : State} {f : RefSlave → RefSlave} (h : SlaveInv s) (hf : ∀ v, v.regs.wf → (f v).regs.wf) :
    SlaveInv (s.setSlave (s.slave.map f)) := by
  unfold SlaveInv at h ⊢
  cases hv : s.slave with
  | none => trivial
  | some v =>
    rw [hv] at h
    exact hf v h

/-- A performed command: the event moves the trace to where the phase says, the status code is one of the table's, and the
device on the bus keeps its registers canonical. `i` is the sequencer, up to the byte a receive has put into `i2c.dr`. -/
theorem BusInv.performed {s : State} {i : I2c} {e : BusEvent} {st : Byte} {f : RefSlave → RefSlave} (h : BusInv s)
    (hs : i.stopPend = false) (hphase : i.phase = s.i2c.phase) (hdev : i.dev = s.i2c.dev)
    (hpos : ∀ p, posMatches s.i2c p = true → tracePosStep p e = restPos i.phase i.dev ∧ restPos i.phase i.dev ≠ none)
    (hst : st ∈ s.params.st.values) (hf : ∀ v, v.regs.wf → (f v).regs.wf) :
    BusInv (((s.emit e).setI2c (engineDone i st)).setSlave (s.slave.map f)) where
  wait := .of_none rfl (.inr rfl)
  dev := by simpa [DevInv, engineDone, hphase, hdev] using h.dev
  trace := by
    obtain ⟨p, hp, hm⟩ := traceInv_iff.mp h.trace
    obtain ⟨hstep, hsome⟩ := hpos p hm
    obtain ⟨q, hq⟩ := Option.ne_none_iff_exists'.mp hsome
    refine traceInv_iff.mpr ⟨q, ?_, Iff.mpr (posMatches_of_none hs rfl) hq⟩
    simp [tracePos_append, hp, hstep, hq]
  code := List.mem_map_of_mem hst
  slave := slaveInv_map h.slave hf

theorem idle_mem_values (st : StatusTable) : st.idle ∈ st.values := by simp [StatusTable.values]

theorem txStatus_mem_values (st : StatusTable) (k : TxKind) (a : Ack) : txStatus st k a ∈ st.values := by
  cases k <;> cases a <;> simp [txStatus, StatusTable.values]

theorem rxStatus_mem_values (st : StatusTable) (i : I2c) : rxStatus st i ∈ st.values := by
  unfold rxStatus
  split <;> simp [StatusTable.values]

section
variable {s : State} (h : BusInv s)
include h

/-- EngStop (R140): the stop ends the transaction, and a start issued behind it begins from there. -/
theorem engStop_keeps_busInv (hs : s.i2c.stopPend = true) : BusInv (engStop s) where
  wait := h.wait
  dev := h.dev
  trace := by
    obtain ⟨p, hp, hm⟩ := traceInv_iff.mp h.trace
    obtain ⟨hpos, hnext⟩ := (posMatches_of_stopPend hs).mp hm
    have hstep : tracePosStep p .p = some .idle := by rcases hpos with ⟨d, rfl⟩ | rfl <;> rfl
    refine traceInv_iff.mpr ⟨.idle, by simp [engStop, tracePos_append, hp, hstep], ?_⟩
    rcases hnext with ⟨hc, hq⟩ | ⟨hc, hq⟩
    · exact Iff.mpr (posMatches_of_none rfl hc) (by simp [engStop, hq, restPos])
    · exact Iff.mpr (posMatches_of_start rfl hc) (.inl ⟨hq, rfl⟩)
  code := List.mem_map_of_mem (idle_mem_values _)
  slave := slaveInv_map h.slave fun _ hv => hv

/-- EngStart (R141): a start from between two transactions, a repeated one from the write phase. -/
theorem engStart_keeps_busInv (hs : s.i2c.stopPend = false) (hc : s.i2c.cmd = .start) : BusInv (engStart s) := by
  unfold engStart
  split
  · next hq =>
    refine h.performed hs rfl rfl (fun p hm => ?_) (by simp [StatusTable.values]) fun _ hv => hv
    rcases (posMatches_of_start hs hc).mp hm with ⟨-, rfl⟩ | ⟨hq', -⟩
    · simp [hq, restPos, tracePosStep]
    · simp [hq] at hq'
  · next hq =>
    refine h.performed hs rfl rfl (fun p hm => ?_) (by simp [StatusTable.values]) fun _ hv => hv
    rcases (posMatches_of_start hs hc).mp hm with ⟨hq', -⟩ | ⟨hq', hr⟩
    · exact absurd hq' hq
    · obtain ⟨d, hd, rfl⟩ := restPos_mt_eq_some.mp hr
      simp [hq', hd, restPos, tracePosStep]

/-- EngTx (R142): the address byte leads to the phase its read bit says, a data byte stays in the write phase. -/
theorem engTx_keeps_busInv (hs : s.i2c.stopPend = false) (hc : s.i2c.cmd = .tx) (a : Ack) : BusInv (engTx a s) := by
  refine h.performed hs rfl rfl (fun p hm => ?_) (txStatus_mem_values _ _ _) fun _ => slaveWrite_wf _
  rcases (posMatches_of_tx hs hc).mp hm with
    ⟨hq, -, rfl, hr, hd⟩ | ⟨hq, -, hrest⟩ | ⟨hq, -, hr, -, rfl | rfl⟩
  · simp [hq, hd, hr, restPos, tracePosStep]
  · obtain ⟨d, hd, rfl⟩ := restPos_mt_eq_some.mp hrest
    simp [hq, hd, restPos, tracePosStep]
  · simp [hq, hr, restPos, tracePosStep]
  · simp [hq, hr, restPos, tracePosStep]

/-- EngRx (R143): the acknowledge the block returns is the one the phase was issued for. -/
theorem engRx_keeps_busInv (hs : s.i2c.stopPend = false) (hc : s.i2c.cmd = .rx) (d : Byte) : BusInv (engRx d s) := by
  refine h.performed (i := { s.i2c with dr := d }) hs rfl rfl (fun p hm => ?_) (rxStatus_mem_values _ _) fun v hv => ?_
  · obtain ⟨rfl, ⟨hq, hk⟩ | ⟨hq, hk⟩⟩ := (posMatches_of_rx hs hc).mp hm <;>
      simp [hq, hk, restPos, rxAckBit, tracePosStep]
  · rwa [slaveRead_regs]

theorem engineTurn_keeps_busInv (a : BusAnswer) : BusInv (engineTurn a s) := by
  rcases engineTurn_cases a s with he | ⟨hs, -, he⟩ | ⟨hs, hc, -, he⟩ | ⟨hs, hc, k, -, he⟩ | ⟨hs, hc, d, -, he⟩ <;> rw [he]
  · exact h
  · exact engStop_keeps_busInv h hs
  · exact engStart_keeps_busInv h hs hc
  · exact engTx_keeps_busInv h hs hc k
  · exact engRx_keeps_busInv h hs hc d

end

theorem step_keeps_busInv {s t : State} (hi : BusInv s) (h : step s = .next t) : BusInv t := by
  have hu : BusInv s.turnTaken := hi.congr (by simp) (by simp) (by simp) (by simp) (by simp)
  cases step_move h with
  | complete k hb hd => exact (hu.complete (by simpa using hd)).congr rfl rfl rfl rfl rfl
  | issue i ws t hissue he =>
    obtain ⟨-, -, hb, -⟩ := hissue
    have hw : BusInv (s.turnTaken.setWords ws) := hu.congr rfl rfl rfl rfl rfl
    exact exec_keeps_busInv hw (by simpa using hb) he
  | engine a ht => exact engineTurn_keeps_busInv hu a
  | _ => exact hu.congr rfl rfl rfl rfl rfl

/-- Settles O36: unit by unit, from what a step can do to each. -/
theorem invariantKeptByEveryStep : Obligations.InvariantKeptByEveryStep := by
  intro s t hi h
  obtain ⟨hp, ht, hb⟩ := inv_iff.mp hi
  exact ⟨inv_iff.mpr ⟨step_keeps_pwmInv hp h, step_keeps_tickInv ht h, step_keeps_busInv hb h⟩, step_params h⟩

/-! ### Reset, and the invariants of R52 -/

theorem inv_resetWith (p : Params) : Inv (State.resetWith p) where
  pwm := ⟨nofun, fun _ => ⟨rfl, rfl⟩⟩
  tick := ⟨(by decide : (0 : Byte) ≤ 99), fun _ => ⟨rfl, rfl, rfl⟩⟩
  wait := .inl rfl
  dev := ⟨fun _ => .inl rfl, fun _ => rfl⟩
  trace := rfl
  code := List.mem_map_of_mem (f := codeOf) (idle_mem_values _)
  slave := trivial

/-- Settles O37: reset is one state for each choice of the parameters. -/
theorem invariantHoldsAtReset : Obligations.InvariantHoldsAtReset := ⟨inv_resetWith _, inv_resetWith⟩

/-- R52 item 4: a Host that waits has its operation done or pending. -/
theorem WaitInv.done_or_pending {s : State} (h : WaitInv s) {k : WaitKind} (hb : s.busy = some k) :
    s.i2c.done = true ∨ s.i2c.cmd ≠ .none := by
  unfold WaitInv at h
  split at h <;> simp_all

/-- R52 item 5: behind a pending stop the engine has at most a start to perform. -/
theorem TraceInv.stopPend_of_byte {s : State} (h : TraceInv s) (hc : s.i2c.cmd = .tx ∨ s.i2c.cmd = .rx) :
    s.i2c.stopPend = false := by
  obtain ⟨p, -, hm⟩ := traceInv_iff.mp h
  by_contra hs
  rcases ((posMatches_of_stopPend (by simpa using hs)).mp hm).2 with ⟨hc', -⟩ | ⟨hc', -⟩ <;> simp [hc'] at hc

theorem pwmOut_of_not_driven {s : State} (h : s.pwm.oe = false) : s.pwmOut = .z := if_pos h

theorem pwmOut_of_driven {s : State} (h : s.pwm.oe = true) :
    s.pwmOut = if s.pwm.mode = .fastNonInv ∧ s.pwm.cnt < s.pwm.cmpAct then .high else .low :=
  if_neg (by simp [h])

/-- Settles O38: items 2, 4 and 5 of R52 are read off the inductive parts, the others stand in the invariant. -/
theorem numberedInvariants : Obligations.NumberedInvariants := by
  intro s h
  refine ⟨fun hc => ?_, fun hc => pwmOut_of_not_driven (h.pwm.2 hc).2, h.tick.1, fun k => h.wait.done_or_pending,
    h.trace.stopPend_of_byte, h.dev.symm, h.tick.2⟩
  obtain ⟨hm, ho, ht, hb, ha, hn, -⟩ := h.pwm.1 hc
  exact ⟨hm, ho, ht, hb, ha, hn⟩

/-- Settles O17: the pin is not driven, or follows the comparison of a running waveform. -/
theorem outputPin : Obligations.OutputPin := by
  intro s
  refine ⟨pwmOut_of_not_driven, fun ⟨ho, hw⟩ => ?_, fun ⟨ho, hw⟩ => ?_⟩
  · rw [pwmOut_of_driven ho, if_pos hw]
  · rw [pwmOut_of_driven ho, if_neg hw]

end Sys2Proof.Machine
end

section
/-! PROOFS. Who writes the flags, the count and the mask (10_state.md R22, R23), what is never cleared once set (R25, R34,
R47), and HALT (60_exceptions.md R246). -/

namespace Sys2Proof.Machine

theorem handlerTick_flag {t : Tick} (h : t.flag = false) (h' : (handlerTick t).flag = true) : t.count + 1 = 100 := by
  rcases handlerTick_cases t with ⟨hc, -⟩ | ⟨-, he⟩
  · exact hc
  · simp [he, h] at h'

theorem handlerTick_flag_of_set {t : Tick} (h : t.flag = true) : (handlerTick t).flag = true := by
  rcases handlerTick_cases t with ⟨-, he⟩ | ⟨-, he⟩ <;> simp [he, h]

theorem handlerTick_pend (t : Tick) : (handlerTick t).pend = false := by
  rcases handlerTick_cases t with ⟨-, he⟩ | ⟨-, he⟩ <;> rw [he]

/-- Settles O53: the clauses of the tick source from `step_tick_cases`, those of the completion bit from `step_i2c_cases`. -/
theorem flagWritersAreTheTable : Obligations.FlagWritersAreTheTable := by
  intro s t h
  refine ⟨fun hf hf' => ?flagSet, fun hf hf' => ?flagCleared, fun hd hd' => ?doneSet, fun hd hd' => ?doneCleared,
    fun hp hp' => ?pendSet, fun hp hp' => ?pendCleared, fun hne => ?count⟩
  case flagSet =>
    rcases step_tick_cases h with he | ⟨-, he⟩ | ⟨-, he⟩ | ⟨ht, hdue, he⟩ | ⟨-, -, he⟩ <;> rw [he] at hf'
    case inr.inr.inr.inl => exact ⟨ht, hdue, handlerTick_flag hf hf'⟩
    all_goals simp [clearFlag, hf] at hf'
  case flagCleared =>
    rcases step_tick_cases h with he | ⟨-, he⟩ | ⟨hi, -⟩ | ⟨-, -, he⟩ | ⟨-, -, he⟩
    case inr.inr.inl => exact hi
    all_goals simp [he, hf, handlerTick_flag_of_set] at hf'
  case doneSet =>
    rcases step_i2c_cases h with he | ⟨-, he⟩ | ⟨-, he, -⟩ | ⟨a, ht, rfl⟩
    case inr.inr.inr =>
      rcases engineTurn_done_cases a s.turnTaken with he | ⟨-, hc⟩
      · simp [he, hd] at hd'
      · exact ⟨⟨a, ht⟩, by simpa using hc⟩
    all_goals simp [he, hd] at hd'
  case doneCleared =>
    rcases step_i2c_cases h with he | ⟨-, he⟩ | ⟨hi, -⟩ | ⟨a, -, rfl⟩
    case inr.inr.inl => exact hi
    case inr.inr.inr => rcases engineTurn_done_cases a s.turnTaken with he | ⟨he, -⟩ <;> simp [he, hd] at hd'
    all_goals simp [he, hd] at hd'
  case pendSet =>
    rcases step_tick_cases h with he | ⟨-, he⟩ | ⟨-, he⟩ | ⟨-, -, he⟩ | ⟨ht, -⟩
    case inr.inr.inr.inr => exact ht
    all_goals simp [he, hp, clearFlag, handlerTick_pend] at hp'
  case pendCleared =>
    rcases step_tick_cases h with he | ⟨-, he⟩ | ⟨-, he⟩ | ⟨ht, -⟩ | ⟨-, -, he⟩
    case inr.inr.inr.inl => exact ht
    all_goals simp [he, hp, clearFlag] at hp'
  case count =>
    rcases step_tick_cases h with he | ⟨-, he⟩ | ⟨-, he⟩ | ⟨ht, hdue, -⟩ | ⟨-, -, he⟩
    case inr.inr.inr.inl => exact ⟨ht, hdue⟩
    all_goals simp [he, clearFlag] at hne

/-- Settles O54: what a step does to the mask is `step_gie_cases`. -/
theorem maskWrittenOnlyByIrq : Obligations.MaskWrittenOnlyByIrq := fun _ _ h hne =>
  (step_gie_cases h).resolve_left hne

/-! ### What is never cleared -/

theorem step_pwm_configured {s t : State} (h : step s = .next t) (hc : s.pwm.cfg = true) :
    t.pwm.cfg = true ∧ t.pwm.top = s.pwm.top ∧ t.pwm.oe = s.pwm.oe ∧ t.pwm.mode = s.pwm.mode := by
  rcases step_pwm_cases h with he | ⟨hc', -⟩ | ⟨-, l, he⟩ | ⟨-, he⟩
  · simp [he, hc]
  · simp [hc] at hc'
  · simp [he, hc]
  · rw [clockPwm_frame] at he
    simp [he, hc]

theorem step_i2c_enabled {s t : State} (h : step s = .next t) (he : s.i2c.en = true) :
    t.i2c.en = true ∧ t.i2c.div = s.i2c.div := by
  rcases step_i2c_cases h with hu | ⟨he', -⟩ | ⟨-, -, hen, hv⟩ | ⟨a, -, rfl⟩
  · exact ⟨by rw [hu, he], by rw [hu]⟩
  · simp [he] at he'
  · exact ⟨by rw [hen, he], hv⟩
  · obtain ⟨hen, hv, -⟩ := engineTurn_setup a s.turnTaken
    exact ⟨by simpa [he] using hen, by simpa using hv⟩

theorem step_tick_running {s t : State} (h : step s = .next t) (hr : s.tick.run = true) : t.tick.run = true := by
  rcases step_tick_cases h with he | ⟨-, he⟩ | ⟨-, he⟩ | ⟨-, -, he⟩ | ⟨-, -, he⟩ <;>
    simp [he, hr, clearFlag, handlerTick_run]

/-! ### HALT (R246) -/

/-- The state that a halted Host and the Dispatcher no longer write: everything but the running waveform, the tick source,
the status of the sequencer, the bus and the script of turns. -/
structure HostUntouched (s t : State) : Prop where
  halted : t.halted = s.halted
  gie : t.gie = s.gie
  words : t.words = s.words
  bytes : t.bytes = s.bytes
  cmdOut : t.cmdOut = s.cmdOut
  cmpBuf : t.pwm.cmpBuf = s.pwm.cmpBuf
  level : t.pwm.level = s.pwm.level
  phase : t.i2c.phase = s.i2c.phase

theorem clockPwm_duty (p : Pwm) : (clockPwm p).cmpBuf = p.cmpBuf ∧ (clockPwm p).level = p.level := by
  rw [clockPwm_frame]
  exact ⟨rfl, rfl⟩

/-- Of a halted Host only the wait for an operation already issued can still end. -/
theorem step_of_halted {s t : State} (h : step s = .next t) (hh : s.halted = true) :
    HostUntouched s t ∧ ((t.busy = s.busy ∧ t.completions = s.completions) ∨
      ∃ k, s.busy = some k ∧ s.i2c.done = true ∧ t.busy = none ∧
        t.completions = s.completions ++ [completionRet s.i2c k]) := by
  cases step_move h with
  | complete k hb hd => exact ⟨by constructor <;> simp, .inr ⟨k, hb, hd, rfl, by simp⟩⟩
  | issue i ws t hi he =>
    obtain ⟨-, -, -, hrun, -⟩ := hi
    simp [hh] at hrun
  | command b bs l ht hc =>
    obtain ⟨-, -, -, hrun, -⟩ := ht
    simp [hh] at hrun
  | echo b bs b' ht =>
    obtain ⟨-, -, -, hrun, -⟩ := ht
    simp [hh] at hrun
  | clock hc =>
    obtain ⟨hb, hl⟩ := clockPwm_duty s.pwm
    exact ⟨by constructor <;> simp [hb, hl], .inl (by simp)⟩
  | engine a ht =>
    obtain ⟨-, -, hphase⟩ := engineTurn_setup a s.turnTaken
    rw [engineTurn_frame]
    exact ⟨by constructor <;> simp [hphase], .inl (by simp)⟩
  | _ => exact ⟨by constructor <;> simp, .inl (by simp)⟩

@[simp] theorem handlerDue_halt (s : State) : handlerDue s.halt = handlerDue s := rfl

theorem takeInterrupt_halt (s : State) : takeInterrupt s.halt = (takeInterrupt s).halt := by
  unfold takeInterrupt
  rw [handlerDue_halt]
  split <;> rfl

theorem tickTimerStep_halt (s : State) : tickTimerStep s.halt = (tickTimerStep s).halt := by
  unfold tickTimerStep
  rw [handlerDue_halt, State.halt_tick]
  split <;> rfl

theorem pwmTimerStep_halt (s : State) : pwmTimerStep s.halt = (pwmTimerStep s).halt := by
  unfold pwmTimerStep
  rw [State.halt_pwm]
  split <;> rfl

theorem engStart_halt (s : State) : engStart s.halt = (engStart s).halt := by
  unfold engStart
  rw [State.halt_i2c]
  split <;> rfl

/-- Neither the Bus nor the engine looks at the flag. -/
theorem engineTurn_halt (a : BusAnswer) (s : State) : engineTurn a s.halt = (engineTurn a s).halt := by
  have hg : busGrants s.halt a = busGrants s a := rfl
  have hk : busAck s.halt a = busAck s a := rfl
  have hd : busData s.halt a = busData s a := rfl
  simp only [engineTurn, State.halt_i2c, hg, hk, hd]
  cases s.i2c.stopPend with
  | true => cases busGrants s a <;> rfl
  | false =>
    cases s.i2c.cmd with
    | none => rfl
    | start =>
      cases busGrants s a with
      | false => rfl
      | true => exact engStart_halt s
    | tx => cases busAck s a <;> rfl
    | rx => cases busData s a <;> rfl

theorem agentStep_halt {x : Turn} (s : State) (hhost : x ≠ .host) (hdisp : x ≠ .dispatcher) :
    agentStep x s.halt = andThen (agentStep x s) State.halt := by
  cases x with
  | host => exact absurd rfl hhost
  | dispatcher => exact absurd rfl hdisp
  | handler => exact congrArg _ (takeInterrupt_halt s)
  | tickTimer => exact congrArg _ (tickTimerStep_halt s)
  | pwmTimer => exact congrArg _ (pwmTimerStep_halt s)
  | engine a => exact congrArg _ (engineTurn_halt a s)

/-- Settles O55: the enables unit by unit, and HALT by what a step of a halted state can still do. -/
theorem enablesAreNeverCleared : Obligations.EnablesAreNeverCleared := by
  intro s t h
  refine ⟨step_pwm_configured h, step_i2c_enabled h, step_tick_running h, rfl, fun hh => ?_, fun x => agentStep_halt s⟩
  obtain ⟨hu, hwait⟩ := step_of_halted h hh
  refine ⟨hu.halted.trans hh, hu.gie, hu.words, hu.bytes, hu.cmdOut, hu.cmpBuf, hu.level, hu.phase, fun hb => ?_,
    fun k hk => ?_⟩
  · rcases hwait with ⟨hb', hc⟩ | ⟨k, hk, -⟩
    · exact ⟨hb'.trans hb, hc⟩
    · simp [hb] at hk
  · rcases hwait with ⟨hb', hc⟩ | ⟨k', hk', hd, hb', hc⟩
    · exact .inl ⟨hb'.trans hk, hc⟩
    · obtain rfl : k' = k := by simpa [hk'] using hk
      exact .inr ⟨hd, hb', hc⟩

end Sys2Proof.Machine
end

section
/-! PROOFS. The reference slave (20_memory.md R65): its answer to every engine step and its state after it; and its
registers (R66), which read back as they were written. -/

namespace Sys2Proof.Machine

/-! ### The registers (R66) -/

/-- An address below every listed one is not listed, so it reads as blank. -/
theorem Memory.read_of_lt {m : Memory} {a : Nat} (h : ∀ d ∈ m, a < d.1) : Memory.read m a = blankByte := by
  induction m with
  | nil => rfl
  | cons c m ih =>
    obtain ⟨b, w⟩ := c
    have hab : a < b := h (b, w) List.mem_cons_self
    rw [Memory.read, if_neg hab.ne, ih fun d hd => h d (List.mem_cons_of_mem _ hd)]

/-- The entry a write puts in front of higher addresses, left out when it is blank, reads as the byte written. -/
theorem Memory.read_entry {m : Memory} {a : Nat} {v : Byte} (h : ∀ d ∈ m, a < d.1) (b : Nat) :
    Memory.read (if v = blankByte then m else (a, v) :: m) b = if b = a then v else Memory.read m b := by
  split
  · next hv =>
    split
    · next hb => rw [hb, hv, Memory.read_of_lt h]
    · rfl
  · rfl

/-- Settles O30, by induction on the listed registers: the write falls before the head, on it, or behind it. -/
theorem slaveRegisterReadAfterWrite : Obligations.SlaveRegisterReadAfterWrite := by
  intro m a b v h
  induction m with
  | nil => exact Memory.read_entry (by simp) b
  | cons c m ih =>
    obtain ⟨k, w⟩ := c
    have hlt := Memory.wf_head_lt h
    rcases lt_trichotomy a k with hak | rfl | hka
    · have hall : ∀ d ∈ (k, w) :: m, a < d.1 := List.forall_mem_cons.mpr ⟨hak, fun d hd => hak.trans (hlt d hd)⟩
      rw [Memory.write, if_pos hak, Memory.read_entry hall]
    · rw [Memory.write, if_neg (lt_irrefl a), if_pos rfl, Memory.read_entry hlt, Memory.read]
      split <;> rfl
    · rw [Memory.write, if_neg hka.asymm, if_neg hka.ne', Memory.read, Memory.read, ih (Memory.wf_tail h)]
      by_cases hbk : b = k
      · rw [if_pos hbk, if_neg (by omega), if_pos hbk]
      · rw [if_neg hbk, if_neg hbk]

/-! ### What the slave does with a byte written and with a read (R65) -/

section
variable {v : RefSlave} {b : Byte}

theorem slaveWrite_own_address (ha : v.awaitAddr = true) (hb : deviceOf b = v.addr) :
    slaveWrite v b = (.ack, { v with awaitAddr := false, sel := true, rw := isRead b, first := true }) := by
  rw [slaveWrite, if_pos ha, slaveAddress, if_pos hb]

theorem slaveWrite_other_address (ha : v.awaitAddr = true) (hb : deviceOf b ≠ v.addr) :
    slaveWrite v b = (.nack, { v with awaitAddr := false, sel := false }) := by
  rw [slaveWrite, if_pos ha, slaveAddress, if_neg hb]

theorem slaveWrite_of_data (ha : v.awaitAddr = false) : slaveWrite v b = slaveData v b := by
  rw [slaveWrite, if_neg (by simp [ha])]

theorem slaveData_pointer (hw : v.sel = true ∧ v.rw = false) (hf : v.first = true) :
    slaveData v b = (.ack, { v with ptr := b, first := false }) := by
  rw [slaveData, if_pos hw, if_pos hf]

theorem slaveData_store (hw : v.sel = true ∧ v.rw = false) (hf : v.first = false) :
    slaveData v b = (.ack, { v with regs := v.regs.write v.ptr.toNat b, ptr := v.ptr + 1 }) := by
  rw [slaveData, if_pos hw, if_neg (by simp [hf])]

theorem slaveData_of_not_written (hw : ¬(v.sel = true ∧ v.rw = false)) : slaveData v b = (.nack, v) := if_neg hw

theorem slaveRead_of_driving (hr : v.sel = true ∧ v.rw = true) :
    slaveRead v = (v.regs.read v.ptr.toNat, { v with ptr := v.ptr + 1 }) := if_pos hr

theorem slaveRead_of_not_driving (hr : ¬(v.sel = true ∧ v.rw = true)) : slaveRead v = (0xFF, v) := if_neg hr

end

/-! ### The engine step the slave answers -/

theorem engStart_trace_of_started {s : State} (h : s.i2c.phase = .started) : (engStart s).trace = s.trace ++ [.s] := by
  rw [engStart, if_pos h]
  rfl

theorem engStart_trace_of_repeated {s : State} (h : s.i2c.phase ≠ .started) : (engStart s).trace = s.trace ++ [.sr] := by
  rw [engStart, if_neg h]
  rfl

/-! With a slave attached the engine always performs what it has to: the slave grants every start and stop, acknowledges or
not, and supplies a byte, whatever the turn carries. -/

section
variable {s : State} {v : RefSlave} (hv : s.slave = some v) (a : BusAnswer)
include hv

theorem engineTurn_stop_of_slave (hp : s.i2c.stopPend = true) : engineTurn a s = engStop s := by
  simp [engineTurn, busGrants, hv, hp]

theorem engineTurn_start_of_slave (hp : s.i2c.stopPend = false) (hc : s.i2c.cmd = .start) :
    engineTurn a s = engStart s := by
  simp [engineTurn, busGrants, hv, hp, hc]

theorem engineTurn_tx_of_slave (hp : s.i2c.stopPend = false) (hc : s.i2c.cmd = .tx) :
    engineTurn a s = engTx (slaveWrite v s.i2c.dr).1 s := by
  simp [engineTurn, busAck, hv, hp, hc]

theorem engineTurn_rx_of_slave (hp : s.i2c.stopPend = false) (hc : s.i2c.cmd = .rx) :
    engineTurn a s = engRx (slaveRead v).1 s := by
  simp [engineTurn, busData, hv, hp, hc]

/-! The slave after the step. -/

theorem engStop_slave : (engStop s).slave = some (slaveStop v) := congrArg (Option.map slaveStop) hv

theorem engStart_slave : (engStart s).slave = some (slaveStart v) := by
  unfold engStart
  split <;> exact congrArg (Option.map slaveStart) hv

theorem engTx_slave (k : Ack) : (engTx k s).slave = some (slaveWrite v s.i2c.dr).2 := congrArg (Option.map _) hv

theorem engRx_slave (d : Byte) : (engRx d s).slave = some (slaveRead v).2 := congrArg (Option.map _) hv

end

theorem engRx_dr (d : Byte) (s : State) : (engRx d s).i2c.dr = d := rfl

/-- Settles O29: the engine performs its command, and the slave does with it what R65 says of each of its states. -/
theorem refSlaveAnswers : Obligations.RefSlaveAnswers := by
  intro s v a hv
  refine ⟨fun hp => ?stop, fun hp hc => ?start, fun hp hc => ?tx, fun hp hc => ?rx⟩
  case stop => exact ⟨_, congrArg Host.Outcome.next (engineTurn_stop_of_slave hv a hp), rfl, engStop_slave hv⟩
  case start =>
    exact ⟨_, congrArg Host.Outcome.next (engineTurn_start_of_slave hv a hp hc), engStart_trace_of_started,
      fun hq => engStart_trace_of_repeated (by simp [hq]), engStart_slave hv⟩
  case tx =>
    refine ⟨_, _, congrArg Host.Outcome.next (engineTurn_tx_of_slave hv a hp hc), rfl, fun ha hb => ?own,
      fun ha hb => ?other, fun ha hs hr hf => ?pointer, fun ha hs hr hf => ?store, fun ha hw => ?ignored⟩ <;> rw [engTx_slave hv]
    case own => rw [slaveWrite_own_address ha hb]; exact ⟨rfl, rfl⟩
    case other => rw [slaveWrite_other_address ha hb]; exact ⟨rfl, rfl⟩
    case pointer => rw [slaveWrite_of_data ha, slaveData_pointer ⟨hs, hr⟩ hf]; exact ⟨rfl, rfl⟩
    case store => rw [slaveWrite_of_data ha, slaveData_store ⟨hs, hr⟩ hf]; exact ⟨rfl, rfl⟩
    case ignored => rw [slaveWrite_of_data ha, slaveData_of_not_written hw]; exact ⟨rfl, rfl⟩
  case rx =>
    refine ⟨_, congrArg Host.Outcome.next (engineTurn_rx_of_slave hv a hp hc), rfl, fun hs hr => ?driving,
      fun hr => ?notDriving⟩ <;> rw [engRx_slave hv, engRx_dr]
    case driving => rw [slaveRead_of_driving ⟨hs, hr⟩]; exact ⟨rfl, rfl⟩
    case notDriving => rw [slaveRead_of_not_driving hr]; exact ⟨rfl, rfl⟩

end Sys2Proof.Machine
end

section
/-! PROOFS. The two decoders and the encoder (30_encoding.md R80 to R96): each decoder accepts exactly what the encoder
writes, and the rows of R84 and R86 and the reserved space of R87 are read off that. -/

namespace Sys2Proof

/-! ### The fields of a word (R82) -/

theorem toNat_opWord (unit fn : BitVec 4) (arg : Byte) :
    (opWord unit fn arg).toNat = unit.toNat * 4096 + fn.toNat * 256 + arg.toNat := by
  simp only [opWord, BitVec.toNat_append]
  rw [← Nat.shiftLeft_add_eq_or_of_lt (by omega), ← Nat.shiftLeft_add_eq_or_of_lt (by omega)]
  simp only [Nat.shiftLeft_eq]
  omega

theorem OpFields.toNat_unit (w : OpWord) : (OpFields.ofWord w).unit.toNat = w.toNat / 4096 := by
  simp only [OpFields.ofWord, BitVec.extractLsb'_toNat, Nat.shiftRight_eq_div_pow]
  omega

theorem OpFields.toNat_fn (w : OpWord) : (OpFields.ofWord w).fn.toNat = w.toNat / 256 % 16 := by
  simp only [OpFields.ofWord, BitVec.extractLsb'_toNat, Nat.shiftRight_eq_div_pow]

theorem OpFields.toNat_arg (w : OpWord) : (OpFields.ofWord w).arg.toNat = w.toNat % 256 := by
  simp only [OpFields.ofWord, BitVec.extractLsb'_toNat, Nat.shiftRight_zero]

/-- A word is the word of its own fields. -/
theorem opWord_ofWord (w : OpWord) :
    opWord (OpFields.ofWord w).unit (OpFields.ofWord w).fn (OpFields.ofWord w).arg = w := by
  apply BitVec.eq_of_toNat_eq
  rw [toNat_opWord, OpFields.toNat_unit, OpFields.toNat_fn, OpFields.toNat_arg]
  omega

theorem exists_opWord (w : OpWord) : ∃ unit fn arg, w = opWord unit fn arg := ⟨_, _, _, (opWord_ofWord w).symm⟩

section
variable {unit fn unit' fn' : BitVec 4} {arg arg' : Byte}

theorem opWord_inj : opWord unit fn arg = opWord unit' fn' arg' ↔ unit = unit' ∧ fn = fn' ∧ arg = arg' := by
  simp only [BitVec.toNat_eq, toNat_opWord]
  omega

theorem opWord_and :
    opWord unit fn arg &&& opWord unit' fn' arg' = opWord (unit &&& unit') (fn &&& fn') (arg &&& arg') :=
  BitVec.and_append.trans (congrArg (· ++ (arg &&& arg')) BitVec.and_append)

theorem setWidth_opWord : (opWord unit fn arg).setWidth 8 = arg := BitVec.setWidth_append_eq_right

end

/-- A word is known by its bits under a mask and its bits outside it. -/
theorem eq_iff_masked_eq (m w x : OpWord) : w = x ↔ w &&& m = x &&& m ∧ w &&& ~~~m = x &&& ~~~m := by
  refine ⟨by rintro rfl; simp, fun ⟨h, h'⟩ => ?_⟩
  have hsplit (y : OpWord) : (y &&& m) ||| (y &&& ~~~m) = y := by
    rw [← BitVec.and_or_distrib_left, BitVec.or_not_self, BitVec.and_allOnes]
  rw [← hsplit w, h, h', hsplit x]

/-! ### The encoder (R84, R86, R94) -/

/-- The encoder writes nothing that the decoder does not read back. -/
theorem decode_encode (i : Instr) : decode (encode i) = some i := by
  cases i with
  | pwmConfigure => exact Laws.RoundTrip.pwmConfigure rfl
  | pwmSetduty l => exact Laws.RoundTrip.pwmSetduty l rfl
  | i2cInit => exact Laws.RoundTrip.i2cInit rfl
  | i2cStart => exact Laws.RoundTrip.i2cStart rfl
  | i2cStop => exact Laws.RoundTrip.i2cStop rfl
  | i2cWrite b => exact Laws.RoundTrip.i2cWrite b rfl
  | i2cReadack => exact Laws.RoundTrip.i2cReadack rfl
  | i2cReadnack => exact Laws.RoundTrip.i2cReadnack rfl
  | i2cGetstatus => exact Laws.RoundTrip.i2cGetstatus rfl
  | tickInit => exact Laws.RoundTrip.tickInit rfl
  | tickRdflag => exact Laws.RoundTrip.tickRdflag rfl
  | tickClrflag => exact Laws.RoundTrip.tickClrflag rfl
  | tickRdcnt => exact Laws.RoundTrip.tickRdcnt rfl
  | tickTake => exact Laws.RoundTrip.tickTake rfl
  | irqEnable => exact Laws.RoundTrip.irqEnable rfl
  | irqDisable => exact Laws.RoundTrip.irqDisable rfl
  | cmdLow => exact Laws.RoundTrip.cmdLow rfl
  | cmdMed => exact Laws.RoundTrip.cmdMed rfl
  | cmdHigh => exact Laws.RoundTrip.cmdHigh rfl
  | cmdOff => exact Laws.RoundTrip.cmdOff rfl

/-! ### The OP16 decoder (R84, R87) -/

theorem decode_op16_eq_some {w : OpWord} {i : Instr} : decode (.op16 w) = some i ↔ decodeOp16 w = .op i := by
  rw [decode]
  cases decodeOp16 w <;> simp

theorem noOperand_eq_op {arg : Byte} {i j : Instr} : noOperand arg i = .op j ↔ arg = 0 ∧ i = j := by
  unfold noOperand
  split <;> simp_all

theorem codeOfLevel_levelOfCode : ∀ c : BitVec 2, codeOfLevel (levelOfCode c) = c := by decide

theorem extract_high_eq_zero {arg : Byte} : arg.extractLsb' 2 6 = 0#6 ↔ arg.toNat / 4 = 0 := by
  have hbits : (arg.extractLsb' 2 6).toNat = arg.toNat / 4 := by
    rw [BitVec.extractLsb'_toNat, Nat.shiftRight_eq_div_pow]
    omega
  rw [BitVec.toNat_eq, hbits]
  rfl

/-- With the six upper bits zero, PWM.SETDUTY's byte is its two lower bits, the code of the level (R94). -/
theorem setWidth_level_code {arg : Byte} (h : arg.extractLsb' 2 6 = 0) : (arg.extractLsb' 0 2).setWidth 8 = arg := by
  have hhigh : arg.toNat / 4 = 0 := extract_high_eq_zero.mp h
  apply BitVec.eq_of_toNat_eq
  rw [BitVec.toNat_setWidth, BitVec.extractLsb'_toNat, Nat.shiftRight_zero]
  omega

section
variable {fn : BitVec 4} {arg : Byte} {i : Instr}

theorem encode_of_decodePwm (h : decodePwm fn arg = .op i) : encode i = .op16 (opWord 1 fn arg) := by
  unfold decodePwm at h
  split at h
  · next hf =>
    obtain ⟨ha, rfl⟩ := noOperand_eq_op.mp h
    rw [hf, ha]
    rfl
  · split at h
    · next hf =>
      split at h
      · next ha =>
        cases h
        rw [hf, encode, codeOfLevel_levelOfCode, setWidth_level_code ha]
      · cases h
    · cases h

theorem encode_of_decodeI2c (h : decodeI2c fn arg = .op i) : encode i = .op16 (opWord 2 fn arg) := by
  by_cases hf : fn = 3
  · subst hf
    obtain rfl := Decoded16.op.inj h
    rfl
  · simp only [decodeI2c, if_neg hf] at h
    split_ifs at h
    all_goals
      obtain ⟨rfl, rfl⟩ := noOperand_eq_op.mp h
      subst fn
      rfl

theorem encode_of_decodeTick (h : decodeTick fn arg = .op i) : encode i = .op16 (opWord 3 fn arg) := by
  unfold decodeTick at h
  split_ifs at h
  all_goals
    obtain ⟨rfl, rfl⟩ := noOperand_eq_op.mp h
    subst fn
    rfl

theorem encode_of_decodeIrq (h : decodeIrq fn arg = .op i) : encode i = .op16 (opWord 4 fn arg) := by
  unfold decodeIrq at h
  split_ifs at h
  all_goals
    obtain ⟨rfl, rfl⟩ := noOperand_eq_op.mp h
    subst fn
    rfl

end

theorem encode_of_decodeOp16 {w : OpWord} {i : Instr} (h : decodeOp16 w = .op i) : encode i = .op16 w := by
  have hw := opWord_ofWord w
  simp only [decodeOp16] at h
  split_ifs at h with h1 h2 h3 h4
  · rw [encode_of_decodePwm h, ← h1, hw]
  · rw [encode_of_decodeI2c h, ← h2, hw]
  · rw [encode_of_decodeTick h, ← h3, hw]
  · rw [encode_of_decodeIrq h, ← h4, hw]

/-! The must-be-zero bits and the functions of each unit (R83, R87), as numbers. -/

theorem noOperand_eq_reserved {arg : Byte} {i : Instr} : noOperand arg i = .reserved ↔ arg.toNat ≠ 0 := by
  unfold noOperand
  split <;> simp_all [BitVec.toNat_eq]

section
variable {fn : BitVec 4} {arg : Byte}

theorem decodePwm_eq_reserved : decodePwm fn arg = .reserved ↔
    fn.toNat > 1 ∨ (fn.toNat = 0 ∧ arg.toNat ≠ 0) ∨ (fn.toNat = 1 ∧ arg.toNat / 4 ≠ 0) := by
  simp only [decodePwm, BitVec.toNat_eq (x := fn), BitVec.ofNat_eq_ofNat, extract_high_eq_zero, BitVec.toNat_ofNat,
    Nat.reducePow, Nat.reduceMod]
  split_ifs <;> simp only [noOperand_eq_reserved, true_iff, false_iff] <;> omega

theorem decodeI2c_eq_reserved : decodeI2c fn arg = .reserved ↔ fn.toNat > 6 ∨ (fn.toNat ≠ 3 ∧ arg.toNat ≠ 0) := by
  simp only [decodeI2c, BitVec.toNat_eq (x := fn), BitVec.ofNat_eq_ofNat, BitVec.toNat_ofNat, Nat.reducePow,
    Nat.reduceMod]
  split_ifs <;> simp only [noOperand_eq_reserved, true_iff, false_iff] <;> omega

theorem decodeTick_eq_reserved : decodeTick fn arg = .reserved ↔ fn.toNat > 4 ∨ arg.toNat ≠ 0 := by
  simp only [decodeTick, BitVec.toNat_eq (x := fn), BitVec.ofNat_eq_ofNat, BitVec.toNat_ofNat, Nat.reducePow,
    Nat.reduceMod]
  split_ifs <;> simp only [noOperand_eq_reserved, true_iff] <;> omega

theorem decodeIrq_eq_reserved : decodeIrq fn arg = .reserved ↔ fn.toNat > 1 ∨ arg.toNat ≠ 0 := by
  simp only [decodeIrq, BitVec.toNat_eq (x := fn), BitVec.ofNat_eq_ofNat, BitVec.toNat_ofNat, Nat.reducePow,
    Nat.reduceMod]
  split_ifs <;> simp only [noOperand_eq_reserved, true_iff] <;> omega

end

/-- The reserved words by their unit: its undefined functions and its must-be-zero bits (R87). -/
theorem decodeOp16_eq_reserved_iff {w : OpWord} : decodeOp16 w = .reserved ↔
    (w.toNat / 4096 ≠ 1 ∧ w.toNat / 4096 ≠ 2 ∧ w.toNat / 4096 ≠ 3 ∧ w.toNat / 4096 ≠ 4) ∨
    (w.toNat / 4096 = 1 ∧ w.toNat / 256 % 16 > 1) ∨
    (w.toNat / 4096 = 2 ∧ w.toNat / 256 % 16 > 6) ∨
    (w.toNat / 4096 = 3 ∧ w.toNat / 256 % 16 > 4) ∨
    (w.toNat / 4096 = 4 ∧ w.toNat / 256 % 16 > 1) ∨
    (w.toNat % 256 ≠ 0 ∧ w.toNat / 256 ≠ 0x11 ∧ w.toNat / 256 ≠ 0x23) ∨
    (w.toNat / 256 = 0x11 ∧ w.toNat % 256 / 4 ≠ 0) := by
  simp only [decodeOp16, BitVec.toNat_eq (x := (OpFields.ofWord w).unit), OpFields.toNat_unit, BitVec.ofNat_eq_ofNat,
    BitVec.toNat_ofNat, Nat.reducePow, Nat.reduceMod]
  split_ifs <;>
    simp only [decodePwm_eq_reserved, decodeI2c_eq_reserved, decodeTick_eq_reserved, decodeIrq_eq_reserved,
      OpFields.toNat_fn, OpFields.toNat_arg, true_iff] <;>
    omega

/-- A word is decoded to the operation whose encoding it is, and to no other. -/
theorem decodeOp16_eq_op_iff {w : OpWord} {i : Instr} : decodeOp16 w = .op i ↔ encode i = .op16 w := by
  refine ⟨encode_of_decodeOp16, fun h => decode_op16_eq_some.mp ?_⟩
  rw [← h, decode_encode]

/-! ### The C8 decoder (R85, R86, R88) -/

theorem decode_c8_eq_some {b : Byte} {i : Instr} : decode (.c8 b) = some i ↔ decodeC8 b = .command i := by
  rw [decode]
  cases decodeC8 b <;> simp

/-- Bit 5 is not looked at: the row of CMD.OFF has two bytes (R86). -/
theorem selects_cmdOff_iff (b : Byte) : b &&& 0xDF = 0x58 ↔ b = 0x78 ∨ b = 0x58 := by
  revert b
  decide

/-- A byte is a command exactly when it is the encoding of it, or the second byte of CMD.OFF. -/
theorem decodeC8_eq_command_iff {b : Byte} {i : Instr} :
    decodeC8 b = .command i ↔ encode i = .c8 b ∨ (i = .cmdOff ∧ b = 0x58) := by
  constructor
  · intro h
    unfold decodeC8 at h
    split_ifs at h with hlow hmed hhigh hoff <;> obtain rfl := Decoded8.command.inj h
    · exact .inl (congrArg _ hlow.symm)
    · exact .inl (congrArg _ hmed.symm)
    · exact .inl (congrArg _ hhigh.symm)
    · rcases (selects_cmdOff_iff b).mp hoff with rfl | rfl
      · exact .inl rfl
      · exact .inr ⟨rfl, rfl⟩
  · rintro (h | ⟨rfl, rfl⟩)
    · rw [← decode_c8_eq_some, ← h, decode_encode]
    · rfl

/-- Every other byte is unrecognised, under its own value (R88). -/
theorem decodeC8_eq_unrecognised_iff {b b' : Byte} :
    decodeC8 b = .unrecognised b' ↔ b' = b ∧ b ∉ ([0x77, 0x73, 0x57, 0x78, 0x58] : List Byte) := by
  unfold decodeC8
  simp only [selects_cmdOff_iff]
  split_ifs <;> simp_all [eq_comm]

/-! ### The rows of R84 and R86 -/

/-- The operations without operand: the mask of the row is all ones, so the row is one word. -/
theorem decodeOp16_eq_op_iff_word {w c : OpWord} {i : Instr} (h : encode i = .op16 c) :
    decodeOp16 w = .op i ↔ w &&& 0xFFFF = c := by
  have hmask : w &&& 0xFFFF = w := BitVec.and_allOnes
  rw [decodeOp16_eq_op_iff, h, hmask, Encoding.op16.injEq, eq_comm]

theorem decodeOp16_eq_pwmSetduty_iff {w : OpWord} {l : DutyLevel} :
    decodeOp16 w = .op (.pwmSetduty l) ↔ w &&& 0xFFFC = 0x1100 ∧ w &&& 0x0003 = (codeOfLevel l).setWidth 16 := by
  have hrow : opWord 1 1 ((codeOfLevel l).setWidth 8) &&& 0xFFFC = 0x1100 := by cases l <;> rfl
  have hcode : opWord 1 1 ((codeOfLevel l).setWidth 8) &&& 0x0003 = (codeOfLevel l).setWidth 16 := by cases l <;> rfl
  rw [decodeOp16_eq_op_iff, encode, Encoding.op16.injEq, eq_comm, eq_iff_masked_eq 0xFFFC, ← hrow, ← hcode]
  rfl

theorem decodeOp16_eq_i2cWrite_iff {w : OpWord} {b : Byte} :
    decodeOp16 w = .op (.i2cWrite b) ↔ w &&& 0xFF00 = 0x2300 ∧ b = w.setWidth 8 := by
  rw [decodeOp16_eq_op_iff, encode, Encoding.op16.injEq]
  obtain ⟨unit, fn, arg, rfl⟩ := exists_opWord w
  have hmask : opWord unit fn arg &&& opWord (.allOnes 4) (.allOnes 4) 0#8 = opWord unit fn 0 := by
    rw [opWord_and, BitVec.and_allOnes, BitVec.and_allOnes, BitVec.and_zero]
    rfl
  rw [setWidth_opWord, show (0xFF00 : OpWord) = opWord (.allOnes 4) (.allOnes 4) 0#8 from rfl, hmask,
    show (0x2300 : OpWord) = opWord 2 3 0 from rfl, opWord_inj, opWord_inj]
  simp only [and_true, and_assoc, eq_comm]

/-- Every row fixes the unit and the function, and no two rows have the same. -/
theorem opTable_disjoint {w : OpWord} {r₁ r₂ : OpWord × OpWord} (h₁ : r₁ ∈ opTable) (h₂ : r₂ ∈ opTable)
    (hs₁ : selectsOp w r₁ = true) (hs₂ : selectsOp w r₂ = true) : r₁ = r₂ := by
  have hhigh : ∀ row ∈ opTable, row.2 &&& 0xFF00 = 0xFF00 ∧ row.1 &&& 0xFF00 = row.1 := by simp [opTable]
  have hmatch (row) (hr : row ∈ opTable) (hs : selectsOp w row = true) : row.1 = w &&& 0xFF00 := by
    obtain ⟨hmask, hlow⟩ := hhigh row hr
    rw [← hlow, ← of_decide_eq_true hs, BitVec.and_assoc, hmask]
  have hnodup : (opTable.map Prod.fst).Nodup := by decide
  exact List.inj_on_of_nodup_map hnodup h₁ h₂ ((hmatch r₁ h₁ hs₁).trans (hmatch r₂ h₂ hs₂).symm)

/-- An operation is decoded from a word of its own row. -/
theorem exists_row_of_decodeOp16 {w : OpWord} {i : Instr} (h : decodeOp16 w = .op i) :
    ∃ row ∈ opTable, selectsOp w row = true := by
  have henc := decodeOp16_eq_op_iff.mp h
  cases i with
  | pwmSetduty l => exact ⟨(0x1100, 0xFFFC), by decide, decide_eq_true (decodeOp16_eq_pwmSetduty_iff.mp h).1⟩
  | i2cWrite b => exact ⟨(0x2300, 0xFF00), by decide, decide_eq_true (decodeOp16_eq_i2cWrite_iff.mp h).1⟩
  | cmdLow | cmdMed | cmdHigh | cmdOff => cases henc
  | _ =>
    obtain rfl := Encoding.op16.inj henc
    decide

theorem exists_op_of_not_reserved {w : OpWord} (h : decodeOp16 w ≠ .reserved) : ∃ i, decodeOp16 w = .op i := by
  cases hd : decodeOp16 w with
  | op i => exact ⟨i, rfl⟩
  | reserved => exact absurd hd h

/-- A row of one word holds an encoding; the rows with an operand hold one for each value of it. -/
theorem exists_op_of_selectsOp {w : OpWord} {row : OpWord × OpWord} (hr : row ∈ opTable) (h : selectsOp w row = true) :
    ∃ i, decodeOp16 w = .op i := by
  have hrows : ∀ row ∈ opTable, (row.2 = 0xFFFF ∧ decodeOp16 row.1 ≠ .reserved) ∨
      row = (0x1100, 0xFFFC) ∨ row = (0x2300, 0xFF00) := by
    simp [opTable, decodeOp16_eq_reserved_iff]
  have hw := of_decide_eq_true h
  rcases hrows row hr with ⟨hmask, hop⟩ | rfl | rfl
  · have hall : w &&& 0xFFFF = w := BitVec.and_allOnes
    rw [← hw, hmask, hall] at hop
    exact exists_op_of_not_reserved hop
  · refine ⟨.pwmSetduty (levelOfCode (w.setWidth 2)), decodeOp16_eq_pwmSetduty_iff.mpr ⟨hw, ?_⟩⟩
    rw [codeOfLevel_levelOfCode]
    apply BitVec.eq_of_toNat_eq
    calc
      (w &&& 0x0003).toNat = w.toNat % 4 := Nat.and_two_pow_sub_one_eq_mod w.toNat 2
      _ = ((w.setWidth 2).setWidth 16).toNat := by
        rw [BitVec.toNat_setWidth, BitVec.toNat_setWidth]
        omega
  · exact ⟨_, decodeOp16_eq_i2cWrite_iff.mpr ⟨hw, rfl⟩⟩

theorem decodeOp16_eq_reserved_iff_no_row {w : OpWord} :
    decodeOp16 w = .reserved ↔ ∀ row ∈ opTable, selectsOp w row = false := by
  constructor
  · intro h row hr
    by_contra hs
    obtain ⟨i, hi⟩ := exists_op_of_selectsOp hr (Bool.of_not_eq_false hs)
    simp [h] at hi
  · intro h
    cases hd : decodeOp16 w with
    | reserved => rfl
    | op i =>
      obtain ⟨row, hr, hs⟩ := exists_row_of_decodeOp16 hd
      simp [h row hr] at hs

theorem decodeC8_eq_unrecognised_iff_no_row {b : Byte} :
    decodeC8 b = .unrecognised b ↔ ∀ row ∈ cmdTable, selectsCmd b row = false := by
  have hmask : b &&& 0xFF = b := BitVec.and_allOnes
  simp only [decodeC8_eq_unrecognised_iff, cmdTable, selectsCmd, List.forall_mem_cons, decide_eq_false_iff_not, hmask,
    selects_cmdOff_iff]
  simp

end Sys2Proof

namespace Sys2Proof.Machine

/-! ### The statements about the encoding -/

/-- Settles O1: on each stream the decoder accepts what the encoder writes, and CMD.OFF has its second byte. -/
theorem decodeAcceptsExactlyEncodings : Obligations.DecodeAcceptsExactlyEncodings := by
  intro e i
  cases e with
  | op16 w =>
    rw [decode_op16_eq_some, decodeOp16_eq_op_iff, eq_comm]
    simp
  | c8 b =>
    rw [decode_c8_eq_some, decodeC8_eq_command_iff, eq_comm]
    simp

theorem presentWord_of_reserved {w : OpWord} (h : decodeOp16 w = .reserved) (s : State) :
    presentWord w s = .refused .reservedOp := by
  simp [presentWord, h]

/-- Settles O2: the reserved words unit by unit, and as the words that select no row. -/
theorem reservedWordSpace : Obligations.ReservedWordSpace := fun _ =>
  ⟨decodeOp16_eq_reserved_iff, decodeOp16_eq_reserved_iff_no_row, presentWord_of_reserved⟩

/-- Settles O3: a row without operand is one word, and the two rows with one are read under their masks. -/
theorem opcodeMapSelectsOperations : Obligations.OpcodeMapSelectsOperations := fun _ =>
  ⟨decodeOp16_eq_op_iff_word rfl, fun _ => decodeOp16_eq_pwmSetduty_iff, decodeOp16_eq_op_iff_word rfl,
    decodeOp16_eq_op_iff_word rfl, decodeOp16_eq_op_iff_word rfl, fun _ => decodeOp16_eq_i2cWrite_iff,
    decodeOp16_eq_op_iff_word rfl, decodeOp16_eq_op_iff_word rfl, decodeOp16_eq_op_iff_word rfl,
    decodeOp16_eq_op_iff_word rfl, decodeOp16_eq_op_iff_word rfl, decodeOp16_eq_op_iff_word rfl,
    decodeOp16_eq_op_iff_word rfl, decodeOp16_eq_op_iff_word rfl, decodeOp16_eq_op_iff_word rfl,
    decodeOp16_eq_op_iff_word rfl, fun _ h₁ _ h₂ => opTable_disjoint h₁ h₂⟩

theorem dispatchByte_of_unrecognised {b : Byte} (h : decodeC8 b = .unrecognised b) (s : State) :
    dispatchByte b s = .next (s.notify (.unrec b)) := by
  simp [dispatchByte, h, execUnrecognised]

/-- The unrecognised bytes are all but the five of the commands (R88). -/
theorem length_unrecognised_bytes : ((List.range 256).filter fun n =>
    decide (decodeC8 (BitVec.ofNat 8 n) = .unrecognised (BitVec.ofNat 8 n))).length = 251 := by
  have hset : {n ∈ Finset.range 256 | decodeC8 (BitVec.ofNat 8 n) = .unrecognised (BitVec.ofNat 8 n)} =
      Finset.range 256 \ {0x77, 0x73, 0x57, 0x78, 0x58} := by
    ext n
    simp only [decodeC8_eq_unrecognised_iff, Finset.mem_filter, Finset.mem_range, Finset.mem_sdiff, Finset.mem_insert,
      Finset.mem_singleton, true_and]
    refine and_congr_right fun hn => ?_
    simp [BitVec.toNat_eq, Nat.mod_eq_of_lt hn]
  calc
    _ = Finset.card {n ∈ Finset.range 256 | decodeC8 (BitVec.ofNat 8 n) = .unrecognised (BitVec.ofNat 8 n)} := rfl
    _ = 256 - 5 := by
      rw [hset, Finset.card_sdiff_of_subset (by simp [Finset.insert_subset_iff]), Finset.card_range]
      rfl

/-- Settles O4: the five command bytes from `decodeC8_eq_command_iff`, the others from `decodeC8_eq_unrecognised_iff`. -/
theorem commandByteMap : Obligations.CommandByteMap := by
  refine ⟨fun b => ⟨?low, ?med, ?high, ?off, selects_cmdOff_iff b, decodeC8_eq_unrecognised_iff_no_row.symm, ?unrec,
    dispatchByte_of_unrecognised⟩, ?count⟩
  case low => simp [decodeC8_eq_command_iff, encode, eq_comm]
  case med => simp [decodeC8_eq_command_iff, encode, eq_comm]
  case high => simp [decodeC8_eq_command_iff, encode, eq_comm]
  case off => simp [decodeC8_eq_command_iff, encode, eq_comm]
  case unrec => simp [decodeC8_eq_unrecognised_iff]
  case count => exact length_unrecognised_bytes

/-- Settles O5, row by row of R96. -/
theorem workedEncodings : Obligations.WorkedEncodings := by
  unfold Obligations.WorkedEncodings
  decide

end Sys2Proof.Machine
end

section
/-! PROOFS. What the operation port and the command stream run (30_encoding.md R80, R81; 44_cmd.md R200): the Host's turn
performs the first word or completes the operation it waits for, the Dispatcher's turn the first byte. -/

namespace Sys2Proof.Machine

/-- No operand needs a check beyond its type (R83, R94). -/
theorem wellFormed_eq_true (i : Instr) : i.wellFormed = true := by
  cases i <;> rfl

/-- Taking a turn writes the script and the counter of draws alone. -/
theorem turnTaken_eq (s : State) :
    s.turnTaken = { s with turns := s.turns.tail, drawn := if s.turns = [] then s.drawn + 1 else s.drawn } := by
  obtain ⟨⟩ := s
  unfold State.turnTaken
  split <;> simp_all [State.setTurns]

/-! ### Taking an operation (R81, R200) -/

section
variable {s : State} (hdue : handlerDue s = false) (hfree : s.busy = none) (hrun : s.halted = false)
include hdue hfree hrun

theorem hostTurn_of_word {w : OpWord} {ws : List OpWord} {i : Instr} (hw : s.words = w :: ws)
    (hi : decodeOp16 w = .op i) : hostTurn s = exec i (s.setWords ws) := by
  simp [hostTurn, presentWord, hdue, hfree, hrun, hw, hi]

theorem dispatcherTurn_of_byte {b : Byte} {bs : List Byte} {i : Instr} (hb : s.bytes = b :: bs)
    (hi : decodeC8 b = .command i) : dispatcherTurn s = exec i (s.setBytes bs) := by
  simp [dispatcherTurn, dispatchByte, hdue, hfree, hrun, hb, hi]

theorem step_of_word (ht : s.turn = .host) {w : OpWord} {ws : List OpWord} {i : Instr} (hw : s.words = w :: ws)
    (hi : decodeOp16 w = .op i) : step s = exec i (s.turnTaken.setWords ws) := by
  rw [step, ht]
  exact hostTurn_of_word (by simpa) (by simpa) (by simpa) (by simpa) hi

theorem step_of_byte (ht : s.turn = .dispatcher) {b : Byte} {bs : List Byte} {i : Instr} (hb : s.bytes = b :: bs)
    (hi : decodeC8 b = .command i) : step s = exec i (s.turnTaken.setBytes bs) := by
  rw [step, ht]
  exact dispatcherTurn_of_byte (by simpa) (by simpa) (by simpa) (by simpa) hi

end

/-- Settles O6: with the port free the Host's turn performs the first word, and taking the turn writes the script alone. -/
theorem hostTurnRunsPresentedOperation : Obligations.HostTurnRunsPresentedOperation := by
  intro s w ws i ht hdue hfree hrun hw hi
  refine ⟨wellFormed_eq_true i, ?_⟩
  rw [step_of_word hdue hfree hrun ht hw hi, turnTaken_eq]
  rfl

/-! ### Placing an instruction (log 7) -/

/-- A placed instruction finds no interrupt due: a tick is left pending only if it is masked. -/
theorem handlerDue_withFetchWord {s : State} {nbits w : Nat} (h : nbits = 16 ∨ nbits = 8) :
    handlerDue (s.withFetchWord nbits w) = false := by
  rcases h with rfl | rfl <;> simp [handlerDue, State.withFetchWord, placeFirst]

/-- A row of the opcode table is decoded on the stream its length names (R67, R80). -/
theorem decodeTableWord_eq_some {nbits w : Nat} {i : Instr} (h : decodeTableWord nbits w = some i) :
    (nbits = 16 ∧ decodeOp16 (BitVec.ofNat 16 w) = .op i) ∨ (nbits = 8 ∧ decodeC8 (BitVec.ofNat 8 w) = .command i) := by
  unfold decodeTableWord at h
  split_ifs at h with h16 hw h8 hb
  · exact .inl ⟨h16, decode_op16_eq_some.mp h⟩
  · exact .inr ⟨h8, decode_c8_eq_some.mp h⟩

/-- Settles O8: the placed state has the instruction first in its stream, the port free, and the turn of the agent that takes
it. -/
theorem placedInstructionRunsNext : Obligations.PlacedInstructionRunsNext := by
  intro s nbits w i h
  rcases decodeTableWord_eq_some h with ⟨rfl, hi⟩ | ⟨rfl, hi⟩
  · exact step_of_word (handlerDue_withFetchWord (.inl rfl)) rfl rfl rfl rfl hi
  · exact step_of_byte (handlerDue_withFetchWord (.inr rfl)) rfl rfl rfl rfl hi

/-! ### Completing an operation (R81, R120) -/

theorem hostTurn_of_done {s : State} {k : WaitKind} (hdue : handlerDue s = false) (hb : s.busy = some k)
    (hd : s.i2c.done = true) : hostTurn s = .next ((s.setBusy none).answer (completionRet s.i2c k)) := by
  simp [hostTurn, hdue, hb, completeStep, hd]

/-- Settles O24, by the kind of the wait: a start and a write have no result, the two reads take the data register. -/
theorem waitingHostCompletesOnDone : Obligations.WaitingHostCompletesOnDone := by
  refine fun s hdue => ⟨fun hd hk => ?noResult, fun hd hk => ?read, fun hd hb => ?held⟩
  case noResult => rcases hk with hk | hk <;> exact hostTurn_of_done hdue hk hd
  case read => rcases hk with hk | hk <;> exact hostTurn_of_done hdue hk hd
  case held =>
    obtain ⟨k, hk⟩ := Option.ne_none_iff_exists'.mp hb
    exact hostTurn_of_waiting hk hd

end Sys2Proof.Machine
end

section
/-! PROOFS. The PWM duty controller (40_pwm.md): its two operations, the compare value, one timer clock, and what many clocks
in a row do to the counter, the latched compare value and the pin. -/

namespace Sys2Proof.Machine

/-! ### One timer clock (R108) -/

theorem clockPwm_at_top {p : Pwm} (h : p.cnt = p.top) : clockPwm p = { p with cnt := 0, cmpAct := p.cmpBuf } := if_pos h

theorem clockPwm_below_top {p : Pwm} (h : p.cnt ≠ p.top) : clockPwm p = { p with cnt := p.cnt + 1 } := if_neg h

theorem pwmTimerStep_of_configured {s : State} (h : s.pwm.cfg = true) : pwmTimerStep s = s.setPwm (clockPwm s.pwm) :=
  if_pos h

theorem agentStep_pwmTimer_of_configured {s : State} (h : s.pwm.cfg = true) :
    agentStep .pwmTimer s = .next (s.setPwm (clockPwm s.pwm)) :=
  congrArg Host.Outcome.next (pwmTimerStep_of_configured h)

/-- Settles O14: the two branches of a clock, and the unit that is not configured. -/
theorem pwmTimerClock : Obligations.PwmTimerClock := by
  refine fun s => ⟨fun hc htop => ?top, fun hc hne => ?below, fun hc => ?off⟩
  case top =>
    rw [agentStep_pwmTimer_of_configured hc, clockPwm_at_top htop]
    rfl
  case below =>
    rw [agentStep_pwmTimer_of_configured hc, clockPwm_below_top hne]
    rfl
  case off => exact congrArg Host.Outcome.next (pwmTimerStep_of_not_configured hc)

/-! ### Many clocks in a row (R107 to R110) -/

/-- A run whose script gives the PwmTimer the next `k` turns clocks the unit `k` times and does nothing else. -/
theorem run_pwmTimer_turns (k : Nat) {s : State} (hc : s.pwm.cfg = true) (rest : List Turn) :
    Sys2Proof.core.run k { s with turns := List.replicate k .pwmTimer ++ rest } =
      .next { s with pwm := clockPwm^[k] s.pwm, turns := rest } := by
  induction k generalizing s with
  | zero => rfl
  | succ k ih =>
    have hstep : Sys2Proof.core.step { s with turns := List.replicate (k + 1) .pwmTimer ++ rest } =
        .next { s with pwm := clockPwm s.pwm, turns := List.replicate k .pwmTimer ++ rest } :=
      agentStep_pwmTimer_of_configured hc
    have hc' : (clockPwm s.pwm).cfg = true := by rw [clockPwm_frame]; exact hc
    simp only [Host.Core.run, hstep]
    exact ih (s := s.setPwm (clockPwm s.pwm)) hc'

/-- Up to the top the clocks only count: the old compare value stays (R107). -/
theorem clockPwm_iterate_of_le_top (k : Nat) {p : Pwm} (h : p.cnt.toNat + k ≤ p.top.toNat) :
    clockPwm^[k] p = { p with cnt := p.cnt + BitVec.ofNat 8 k } := by
  induction k with
  | zero => simp
  | succ k ih =>
    have hne : p.cnt + BitVec.ofNat 8 k ≠ p.top := by bv_omega
    have hcnt : p.cnt + BitVec.ofNat 8 k + 1 = p.cnt + BitVec.ofNat 8 (k + 1) := by bv_omega
    rw [Function.iterate_succ_apply', ih (by omega), clockPwm_below_top hne, hcnt]

/-- One clock more than it takes to reach the top latches the buffer (R108). -/
theorem clockPwm_iterate_period {p : Pwm} (h : p.cnt ≤ p.top) :
    clockPwm^[p.top.toNat - p.cnt.toNat + 1] p = { p with cnt := 0, cmpAct := p.cmpBuf } := by
  have hle : p.cnt.toNat ≤ p.top.toNat := h
  have htop : p.cnt + BitVec.ofNat 8 (p.top.toNat - p.cnt.toNat) = p.top := by bv_omega
  rw [Function.iterate_succ_apply', clockPwm_iterate_of_le_top _ (by omega), htop, clockPwm_at_top rfl]

/-- Settles O15: the clocks up to the top only count, and the next one latches. -/
theorem dutyChangeLatency : Obligations.DutyChangeLatency := by
  intro s rest hc hle
  have hle' : s.pwm.cnt.toNat ≤ s.pwm.top.toNat := hle
  refine ⟨fun k hk => ?counts, ?latches, by omega, by omega⟩
  case counts => rw [run_pwmTimer_turns k hc, clockPwm_iterate_of_le_top k (by omega)]
  case latches => rw [run_pwmTimer_turns _ hc, clockPwm_iterate_period hle]

section
variable {s : State} {n : Nat} (ho : s.pwm.oe = true) (hm : s.pwm.mode = .fastNonInv) (hn : s.pwm.cnt.toNat = n)
include ho hm hn

theorem pwmOut_eq_high_iff : s.pwmOut = .high ↔ n < s.pwm.cmpAct.toNat := by
  simp [pwmOut_of_driven ho, hm, BitVec.lt_def, hn]

theorem pwmOut_eq_low_iff : s.pwmOut = .low ↔ s.pwm.cmpAct.toNat ≤ n := by
  simp [pwmOut_of_driven ho, hm, BitVec.lt_def, hn]

end

/-- Settles O16: `k` clocks into the period the counter stands at `k`, and the pin compares it with the value latched when
the period began. -/
theorem waveformOfOnePeriod : Obligations.WaveformOfOnePeriod := by
  intro s k rest hc ho hm hzero hk
  have hrun := run_pwmTimer_turns k hc rest
  rw [clockPwm_iterate_of_le_top k (by simpa [hzero] using hk)] at hrun
  have hcnt : (s.pwm.cnt + BitVec.ofNat 8 k).toNat = k := by bv_omega
  exact ⟨_, hrun, hcnt, rfl, pwmOut_eq_high_iff ho hm hcnt, pwmOut_eq_low_iff ho hm hcnt⟩

/-! ### The compare value (R105) -/

theorem compareNat_mono_pct (top : Nat) {l l' : DutyLevel} (h : pct l ≤ pct l') : compareNat top l ≤ compareNat top l' :=
  Nat.div_le_div_right (Nat.mul_le_mul_left top h)

/-- Settles O13: the bounds are `compareNat_le` and `compareValue_le`; the order is that of the percentages. -/
theorem compareValueArithmetic : Obligations.CompareValueArithmetic := by
  refine ⟨fun top l => ⟨rfl, compareNat_le top l⟩, fun top => ⟨?off, ?offLow, ?lowMedium, ?mediumHigh⟩,
    fun top l => ⟨compareValue_toNat top l, compareValue_le top l⟩, by decide⟩
  case off => simp [compareNat, pct]
  case offLow => exact compareNat_mono_pct top (by decide)
  case lowMedium => exact compareNat_mono_pct top (by decide)
  case mediumHigh => exact compareNat_mono_pct top (by decide)

/-! ### The two operations (R101 to R106) -/

theorem execPwmConfigure_of_configured {s : State} (h : s.pwm.cfg = true) :
    execPwmConfigure s = .refused .pwmReconfigure := if_pos h

theorem execPwmSetduty_of_not_configured {l : DutyLevel} {s : State} (h : s.pwm.cfg = false) :
    execPwmSetduty l s = .refused .pwmNotConfigured :=
  andThen_eq_refused.mpr (setDuty_eq_refused.mpr ⟨h, rfl⟩)

/-- The pin looks at the driven waveform alone, not at the compare buffer or the level (R33, R107). -/
theorem pwmOut_congr {s t : State} (ho : t.pwm.oe = s.pwm.oe) (hm : t.pwm.mode = s.pwm.mode) (hn : t.pwm.cnt = s.pwm.cnt)
    (ha : t.pwm.cmpAct = s.pwm.cmpAct) : t.pwmOut = s.pwmOut := by
  unfold State.pwmOut
  rw [ho, hm, hn, ha]

/-- Settles O11: the unit as R101 leaves it has counter and compare value 0, so the pin is low and, unless the top is 0, the
first clock counts. -/
theorem pwmConfigureResult : Obligations.PwmConfigureResult := by
  refine ⟨by decide, fun s => ⟨fun hc => ⟨_, execPwmConfigure_eq_next.mpr ⟨hc, rfl⟩, rfl, ?low, fun htop => ?clock⟩,
    execPwmConfigure_of_configured⟩⟩
  case low => exact (pwmOut_eq_low_iff rfl rfl rfl).mpr le_rfl
  case clock => exact (pwmTimerClock _).2.1 rfl htop.symm

/-- Settles O12: the operation writes the compare buffer and the level, which the pin does not look at. -/
theorem pwmSetdutyResult : Obligations.PwmSetdutyResult := by
  refine fun l => ⟨?decode, fun s => ⟨fun hc => ⟨_, execPwmSetduty_eq_next.mpr ⟨hc, rfl⟩, rfl, pwmOut_congr rfl rfl rfl rfl⟩,
    execPwmSetduty_of_not_configured⟩⟩
  case decode => cases l <;> rfl

end Sys2Proof.Machine
end

section
/-! PROOFS. The shape of the bus trace (41_i2c.md R148): the position a trace ends in says which part of a transaction has
begun and not ended there, and every such part can be completed. -/

namespace Sys2Proof.Machine

/-- What precedes the read part of a transaction, in either form of R148: it ends with a read address byte. -/
inductive ReadHead : List BusEvent → Prop where
  | afterWrite (addr addr' : Byte) (a a' : Ack) (data : List (Byte × Ack))
      (hw : isRead addr = false) (hr : isRead addr' = true) (hd : deviceOf addr' = deviceOf addr) :
      ReadHead (writePart addr a data ++ [.sr, .w addr' a'])
  | alone (addr : Byte) (a : Ack) (hr : isRead addr = true) : ReadHead [.s, .w addr a]

theorem ReadHead.isTransaction {head : List BusEvent} (h : ReadHead head) (acked : List Byte) (last : Byte) :
    IsTransaction (head ++ readPart acked last ++ [.p]) := by
  cases h with
  | afterWrite addr addr' a a' data hw hr hd => exact .writeRead addr addr' a a' data acked last hw hr hd
  | alone addr a hr => exact .read addr a acked last hr

/-- The part of a transaction that is open at the end of a trace in each position; between two transactions, none is. -/
inductive OpenPart : TracePos → List BusEvent → Prop where
  | idle : OpenPart .idle []
  | started : OpenPart .started [.s]
  | mt (addr : Byte) (a : Ack) (data : List (Byte × Ack)) (hw : isRead addr = false) :
      OpenPart (.mt (deviceOf addr)) (writePart addr a data)
  | repStarted (addr : Byte) (a : Ack) (data : List (Byte × Ack)) (hw : isRead addr = false) :
      OpenPart (.repStarted (deviceOf addr)) (writePart addr a data ++ [.sr])
  | mr (head : List BusEvent) (acked : List Byte) (hh : ReadHead head) :
      OpenPart .mr (head ++ acked.map fun b => .r b .ack)
  | mrLast (head : List BusEvent) (acked : List Byte) (last : Byte) (hh : ReadHead head) :
      OpenPart .mrLast (head ++ readPart acked last)

theorem writePart_append (addr : Byte) (a : Ack) (data : List (Byte × Ack)) (b : Byte) (k : Ack) :
    writePart addr a data ++ [.w b k] = writePart addr a (data ++ [(b, k)]) := by
  simp [writePart]

theorem OpenPart.mr_of_head {head : List BusEvent} (hh : ReadHead head) : OpenPart .mr head := by
  simpa using OpenPart.mr head [] hh

/-- An open part can be completed; with none open there is nothing to complete. -/
theorem OpenPart.completes {p : TracePos} {part : List BusEvent} (h : OpenPart p part) :
    part = [] ∨ ∃ rest, IsTransaction (part ++ rest) := by
  cases h with
  | idle => exact .inl rfl
  | started => exact .inr ⟨[.w 0 .ack, .p], .write 0 .ack [] rfl⟩
  | mt addr a data hw => exact .inr ⟨[.p], .write addr a data hw⟩
  | repStarted addr a data hw =>
    have hr : isRead (addr ||| 1) = true := by simp [isRead]
    have hd : deviceOf (addr ||| 1) = deviceOf addr := by
      revert addr
      decide
    have ht := IsTransaction.writeRead addr (addr ||| 1) a .ack data [] 0 hw hr hd
    exact .inr ⟨_, by simpa using ht⟩
  | mr head acked hh =>
    have ht := hh.isTransaction acked 0
    exact .inr ⟨[.r 0 .nack, .p], by simpa [readPart] using ht⟩
  | mrLast head acked last hh => exact .inr ⟨[.p], hh.isTransaction acked last⟩

/-- An event that keeps the shape makes the open part longer, or completes the transaction. -/
theorem OpenPart.append {p q : TracePos} {part : List BusEvent} {e : BusEvent} (h : OpenPart p part)
    (hq : tracePosStep p e = some q) :
    OpenPart q (part ++ [e]) ∨ (q = .idle ∧ IsTransaction (part ++ [e])) := by
  cases h with
  | idle =>
    cases e with
    | s =>
      obtain rfl : TracePos.started = q := Option.some.inj hq
      exact .inl .started
    | _ => cases hq
  | started =>
    cases e with
    | w b k =>
      obtain rfl : (if isRead b then TracePos.mr else .mt (deviceOf b)) = q := Option.some.inj hq
      cases hr : isRead b with
      | true => exact .inl (.mr_of_head (.alone b k hr))
      | false => exact .inl (.mt b k [] hr)
    | _ => cases hq
  | mt addr a data hw =>
    cases e with
    | w b k =>
      obtain rfl : TracePos.mt (deviceOf addr) = q := Option.some.inj hq
      rw [writePart_append]
      exact .inl (.mt addr a _ hw)
    | sr =>
      obtain rfl : TracePos.repStarted (deviceOf addr) = q := Option.some.inj hq
      exact .inl (.repStarted addr a data hw)
    | p =>
      obtain rfl : TracePos.idle = q := Option.some.inj hq
      exact .inr ⟨rfl, .write addr a data hw⟩
    | _ => cases hq
  | repStarted addr a data hw =>
    cases e with
    | w b k =>
      simp only [tracePosStep] at hq
      split at hq
      · next hb =>
        obtain rfl : TracePos.mr = q := Option.some.inj hq
        have hh := ReadHead.afterWrite addr b a k data hw hb.1 hb.2
        exact .inl (.mr_of_head (by simpa using hh))
      · cases hq
    | _ => cases hq
  | mr head acked hh =>
    cases e with
    | r b k =>
      cases k with
      | ack =>
        obtain rfl : TracePos.mr = q := Option.some.inj hq
        have ho := OpenPart.mr head (acked ++ [b]) hh
        exact .inl (by simpa using ho)
      | nack =>
        obtain rfl : TracePos.mrLast = q := Option.some.inj hq
        have ho := OpenPart.mrLast head acked b hh
        exact .inl (by simpa [readPart] using ho)
    | _ => cases hq
  | mrLast head acked last hh =>
    cases e with
    | p =>
      obtain rfl : TracePos.idle = q := Option.some.inj hq
      exact .inr ⟨rfl, hh.isTransaction acked last⟩
    | _ => cases hq

/-- A trace with a position is a sequence of transactions followed by the part that is open there; by induction on the
trace, event by event. -/
theorem exists_openPart_of_tracePos {tr : List BusEvent} {p : TracePos} (h : tracePos tr = some p) :
    ∃ (ts : List (List BusEvent)) (part : List BusEvent),
      (∀ t ∈ ts, IsTransaction t) ∧ tr = ts.flatten ++ part ∧ OpenPart p part := by
  induction tr using List.reverseRecOn generalizing p with
  | nil =>
    obtain rfl : TracePos.idle = p := Option.some.inj h
    exact ⟨[], [], by simp, rfl, .idle⟩
  | append_singleton tr e ih =>
    rw [tracePos_append] at h
    obtain ⟨p', hp', hstep⟩ := Option.bind_eq_some_iff.mp h
    obtain ⟨ts, part, hts, rfl, hopen⟩ := ih hp'
    rcases hopen.append hstep with ho | ⟨rfl, ht⟩
    · exact ⟨ts, part ++ [e], hts, by simp, ho⟩
    · exact ⟨ts ++ [part ++ [e]], [], List.forall_mem_append.mpr ⟨hts, by simpa using ht⟩, by simp, .idle⟩

theorem traceShape_of_tracePos {tr : List BusEvent} {p : TracePos} (h : tracePos tr = some p) : TraceShape tr := by
  obtain ⟨ts, part, hts, rfl, hopen⟩ := exists_openPart_of_tracePos h
  rcases hopen.completes with rfl | ⟨rest, ht⟩
  · exact ⟨ts, hts, by simp⟩
  · exact ⟨ts ++ [part ++ rest], List.forall_mem_append.mpr ⟨hts, by simpa using ht⟩, rest, by simp⟩

theorem Inv.traceShape {s : State} (h : Inv s) : TraceShape s.trace := by
  obtain ⟨p, hp, -⟩ := traceInv_iff.mp h.trace
  exact traceShape_of_tracePos hp

/-- Settles O39: the invariant gives the trace a position, every step keeps the invariant, and a trace with a position has
the shape. -/
theorem traceIsPrefixOfTransactions : Obligations.TraceIsPrefixOfTransactions := fun s h =>
  ⟨h.traceShape, fun t ht => (invariantKeptByEveryStep s t h ht).1.traceShape⟩

end Sys2Proof.Machine
end

section
/-! PROOFS. The operations of the I2C master sequencer (41_i2c.md R120 to R137): what each issue step does, when it refuses,
and the table of phases they follow (R121). -/

namespace Sys2Proof.Machine

/-! ### The table of R121, where it has no entry -/

theorem startPhase_eq_none {q : Phase} : startPhase q = none ↔ q ≠ .idle ∧ q ≠ .mt := by
  cases q <;> simp [startPhase]

theorem stopPhase_eq_none {q : Phase} : stopPhase q = none ↔ q ≠ .mt ∧ q ≠ .mrLast := by
  cases q <;> simp [stopPhase]

theorem readAckPhase_eq_none {q : Phase} : readAckPhase q = none ↔ q ≠ .mr := by
  cases q <;> simp [readAckPhase]

theorem readNackPhase_eq_none {q : Phase} : readNackPhase q = none ↔ q ≠ .mr := by
  cases q <;> simp [readNackPhase]

theorem writeEffect_eq_error {q : Phase} {d : Option DevAddr} {b : Byte} {r : Refusal} :
    writeEffect q d b = .error r ↔
      (q = .repStarted ∧ ¬(isRead b = true ∧ d = some (deviceOf b)) ∧ r = .i2cRepStartTarget) ∨
      ((q = .idle ∨ q = .mr ∨ q = .mrLast) ∧ r = .i2cProtocol) := by
  cases q with
  | repStarted =>
    by_cases hc : isRead b = true ∧ d = some (deviceOf b)
    · simp [writeEffect, hc]
    · simp [writeEffect, hc, @eq_comm Refusal]
  | idle | mr | mrLast => simp [writeEffect, @eq_comm Refusal]
  | started | mt => simp [writeEffect]

/-! ### When an operation of the sequencer refuses (R122, R123, R121, R130) -/

/-- A guarded meaning that refuses when `c` holds. -/
theorem refuseIf_eq_refused {c : Bool} {r e : Refusal} {u : State} :
    (if c = true then Host.Outcome.refused r else .next u : Result) = .refused e ↔ c = true ∧ e = r := by
  cases c <;> simp [eq_comm]

section
variable {s : State} {r : Refusal}

theorem execI2cInit_eq_refused : execI2cInit s = .refused r ↔ s.i2c.en = true ∧ r = .i2cReinit := refuseIf_eq_refused

theorem execI2cStart_eq_refused : execI2cStart s = .refused r ↔
    (s.i2c.en = false ∧ r = .i2cNotEnabled) ∨
      (s.i2c.en = true ∧ (s.i2c.phase ≠ .idle ∧ s.i2c.phase ≠ .mt) ∧ r = .i2cProtocol) := by
  rw [← startPhase_eq_none, execI2cStart]
  cases s.i2c.en <;> cases startPhase s.i2c.phase <;> simp [issue, eq_comm]

theorem execI2cStop_eq_refused : execI2cStop s = .refused r ↔
    (s.i2c.en = false ∧ r = .i2cNotEnabled) ∨
      (s.i2c.en = true ∧ (s.i2c.phase ≠ .mt ∧ s.i2c.phase ≠ .mrLast) ∧ r = .i2cProtocol) := by
  rw [← stopPhase_eq_none, execI2cStop]
  cases s.i2c.en <;> cases stopPhase s.i2c.phase <;> simp [eq_comm]

theorem execI2cWrite_eq_refused {b : Byte} : execI2cWrite b s = .refused r ↔
    (s.i2c.en = false ∧ r = .i2cNotEnabled) ∨
      (s.i2c.en = true ∧ writeEffect s.i2c.phase s.i2c.dev b = .error r) := by
  rw [execI2cWrite]
  cases s.i2c.en <;> cases writeEffect s.i2c.phase s.i2c.dev b <;> simp [issue, eq_comm]

theorem execI2cReadack_eq_refused : execI2cReadack s = .refused r ↔
    (s.i2c.en = false ∧ r = .i2cNotEnabled) ∨ (s.i2c.en = true ∧ s.i2c.phase ≠ .mr ∧ r = .i2cProtocol) := by
  rw [← readAckPhase_eq_none, execI2cReadack]
  cases s.i2c.en <;> cases readAckPhase s.i2c.phase <;> simp [issue, eq_comm]

theorem execI2cReadnack_eq_refused : execI2cReadnack s = .refused r ↔
    (s.i2c.en = false ∧ r = .i2cNotEnabled) ∨ (s.i2c.en = true ∧ s.i2c.phase ≠ .mr ∧ r = .i2cProtocol) := by
  rw [← readNackPhase_eq_none, execI2cReadnack]
  cases s.i2c.en <;> cases readNackPhase s.i2c.phase <;> simp [issue, eq_comm]

end

/-! ### The issue steps -/

/-- Settles O18: the first call programs the divisor, every later one is refused. -/
theorem i2cInitResult : Obligations.I2cInitResult :=
  ⟨by decide, fun _ =>
    ⟨fun he => execI2cInit_eq_next.mpr ⟨he, rfl⟩, fun he => execI2cInit_eq_refused.mpr ⟨he, rfl⟩⟩⟩

/-- Settles O19, by the two entries of the column. -/
theorem i2cStartResult : Obligations.I2cStartResult := by
  refine ⟨by decide, fun s => ⟨fun he hq => ?start, fun he hq => ?repeated, fun he hq hq' => ?protocol, fun he => ?off⟩⟩
  case start => exact execI2cStart_eq_next.mpr ⟨he, _, startPhase_eq_some.mpr (.inl ⟨hq, rfl⟩), rfl⟩
  case repeated => exact execI2cStart_eq_next.mpr ⟨he, _, startPhase_eq_some.mpr (.inr ⟨hq, rfl⟩), rfl⟩
  case protocol => exact execI2cStart_eq_refused.mpr (.inr ⟨he, ⟨hq, hq'⟩, rfl⟩)
  case off => exact execI2cStart_eq_refused.mpr (.inl ⟨he, rfl⟩)

/-- Settles O20: both phases with an entry lead to Idle. -/
theorem i2cStopResult : Obligations.I2cStopResult := by
  refine ⟨by decide, fun s => ⟨fun he hq => ?stop, fun he hq hq' => ?protocol, fun he => ?off⟩⟩
  case stop => exact execI2cStop_eq_next.mpr ⟨he, _, stopPhase_eq_some.mpr ⟨hq, rfl⟩, rfl⟩
  case protocol => exact execI2cStop_eq_refused.mpr (.inr ⟨he, ⟨hq, hq'⟩, rfl⟩)
  case off => exact execI2cStop_eq_refused.mpr (.inl ⟨he, rfl⟩)

/-- The byte of a write stands in the low half of its word (R82, R83). -/
theorem decodeOp16_write_word (b : Byte) : decodeOp16 (0x2300 ||| b.setWidth 16) = .op (.i2cWrite b) := by
  have hword : (0x2300 : OpWord) ||| b.setWidth 16 = opWord 2 3 b := by
    revert b
    decide
  rw [hword, decodeOp16_eq_op_iff, encode]

/-- Settles O21: each clause is a case of `writeEffect_eq_ok` or of `writeEffect_eq_error`. -/
theorem i2cWriteResult : Obligations.I2cWriteResult := by
  refine fun b => ⟨decodeOp16_write_word b, fun s => ⟨fun he hq hr => ?addrW, fun he hq hr => ?addrR,
    fun he hq hr hd => ?sameDevice, fun he hq hc => ?otherTarget, fun he hq => ?data, fun he hq => ?protocol,
    fun he => ?off⟩⟩
  case addrW => exact execI2cWrite_eq_next.mpr ⟨he, _, writeEffect_eq_ok.mpr (.inr (.inl ⟨hq, hr, rfl⟩)), rfl⟩
  case addrR => exact execI2cWrite_eq_next.mpr ⟨he, _, writeEffect_eq_ok.mpr (.inl ⟨hq, hr, rfl⟩), rfl⟩
  case sameDevice =>
    exact execI2cWrite_eq_next.mpr ⟨he, _, writeEffect_eq_ok.mpr (.inr (.inr (.inl ⟨hq, hr, hd, rfl⟩))), rfl⟩
  case otherTarget => exact execI2cWrite_eq_refused.mpr (.inr ⟨he, writeEffect_eq_error.mpr (.inl ⟨hq, hc, rfl⟩)⟩)
  case data =>
    have hok : writeEffect s.i2c.phase s.i2c.dev b = .ok ⟨s.i2c.phase, s.i2c.dev, .data⟩ :=
      writeEffect_eq_ok.mpr (.inr (.inr (.inr ⟨hq, by rw [hq]⟩)))
    exact execI2cWrite_eq_next.mpr ⟨he, _, hok, rfl⟩
  case protocol => exact execI2cWrite_eq_refused.mpr (.inr ⟨he, writeEffect_eq_error.mpr (.inr ⟨hq, rfl⟩)⟩)
  case off => exact execI2cWrite_eq_refused.mpr (.inl ⟨he, rfl⟩)

/-- Settles O22: READACK stays in the phase it needs, READNACK closes it. -/
theorem i2cReadResults : Obligations.I2cReadResults := by
  refine ⟨by decide, by decide, fun s => ⟨fun he hq => ?ack, fun he hq => ?nack, fun he hq => ?protocol, fun he => ?off⟩⟩
  case ack =>
    have hp : readAckPhase s.i2c.phase = some s.i2c.phase := readAckPhase_eq_some.mpr ⟨hq, hq⟩
    exact execI2cReadack_eq_next.mpr ⟨he, _, hp, rfl⟩
  case nack => exact execI2cReadnack_eq_next.mpr ⟨he, _, readNackPhase_eq_some.mpr ⟨hq, rfl⟩, rfl⟩
  case protocol =>
    exact ⟨execI2cReadack_eq_refused.mpr (.inr ⟨he, hq, rfl⟩), execI2cReadnack_eq_refused.mpr (.inr ⟨he, hq, rfl⟩)⟩
  case off => exact ⟨execI2cReadack_eq_refused.mpr (.inl ⟨he, rfl⟩), execI2cReadnack_eq_refused.mpr (.inl ⟨he, rfl⟩)⟩

/-- The mask keeps the code in place and clears the three bits below it (R37). -/
theorem statusRegister_and_mask (i : I2c) : statusRegister i &&& Config.statusMask = i.srCode ++ (0 : BitVec 3) :=
  calc statusRegister i &&& Config.statusMask
    _ = (i.srCode ++ i.srLow) &&& (BitVec.allOnes 5 ++ 0#3) := rfl
    _ = (i.srCode &&& BitVec.allOnes 5) ++ (i.srLow &&& 0#3) := BitVec.and_append
    _ = i.srCode ++ 0#3 := by rw [BitVec.and_allOnes, BitVec.and_zero]

/-- Settles O23: the byte returned is the masked status register of `statusRegister_and_mask`. -/
theorem i2cGetstatusResult : Obligations.I2cGetstatusResult :=
  ⟨by decide, fun s => execI2cGetstatus_eq_next.mpr (by rw [statusRegister_and_mask]; rfl)⟩

/-! ### The phase moves by the table (R121, R43) -/

/-- The phase goes from `u` to `v` by an entry of the table of R121 that changes it; `P` holds of the operation of the
entry's column. -/
def PhaseEntry (P : Instr → Prop) (u v : I2c) : Prop :=
  (P .i2cStart ∧ u.phase = .idle ∧ v.phase = .started) ∨
  (P .i2cStart ∧ u.phase = .mt ∧ v.phase = .repStarted) ∨
  (∃ b, P (.i2cWrite b) ∧ u.phase = .started ∧ isRead b = false ∧ v.phase = .mt ∧ v.dev = some (deviceOf b)) ∨
  (∃ b, P (.i2cWrite b) ∧ u.phase = .started ∧ isRead b = true ∧ v.phase = .mr ∧ v.dev = some (deviceOf b)) ∨
  (∃ b, P (.i2cWrite b) ∧ u.phase = .repStarted ∧ isRead b = true ∧ u.dev = some (deviceOf b) ∧ v.phase = .mr) ∨
  (P .i2cReadnack ∧ u.phase = .mr ∧ v.phase = .mrLast) ∨
  (P .i2cStop ∧ (u.phase = .mt ∨ u.phase = .mrLast) ∧ v.phase = .idle)

/-- A write in MT keeps the phase; every other one that is accepted makes an entry of its column. -/
theorem phaseEntry_of_write {P : Instr → Prop} {u v : I2c} {b : Byte} {e : WriteEffect} (hP : P (.i2cWrite b))
    (he : writeEffect u.phase u.dev b = .ok e) (hphase : v.phase = e.phase) (hdev : v.dev = e.dev)
    (hne : v.phase ≠ u.phase) : PhaseEntry P u v := by
  rcases writeEffect_eq_ok.mp he with ⟨hq, hr, rfl⟩ | ⟨hq, hr, rfl⟩ | ⟨hq, hr, hd, rfl⟩ | ⟨hq, rfl⟩
  · exact .inr (.inr (.inr (.inl ⟨b, hP, hq, hr, hphase, hdev⟩)))
  · exact .inr (.inr (.inl ⟨b, hP, hq, hr, hphase, hdev⟩))
  · exact .inr (.inr (.inr (.inr (.inl ⟨b, hP, hq, hr, hd, hphase⟩))))
  · exact absurd (hphase.trans hq.symm) hne

/-- An operation that changes the phase makes an entry of the table, and the sequencer is enabled. -/
theorem exec_phaseEntry {P : Instr → Prop} {i : Instr} {s t : State} (hP : P i) (h : exec i s = .next t)
    (hne : t.i2c.phase ≠ s.i2c.phase) : s.i2c.en = true ∧ PhaseEntry P s.i2c t.i2c := by
  rcases exec_next_cases h with ⟨-, _, _, _, rfl⟩ | ⟨hi, -⟩ | ⟨-, _, _, rfl⟩ | ⟨-, _, _, rfl⟩ | ⟨-, _, rfl⟩
  case inr.inl =>
    rcases hi with rfl | rfl | rfl | ⟨b, rfl⟩ | rfl | rfl
    · obtain ⟨-, rfl⟩ := execI2cInit_eq_next.mp h
      exact absurd rfl hne
    · obtain ⟨hen, p, hp, rfl⟩ := execI2cStart_eq_next.mp h
      rcases startPhase_eq_some.mp hp with ⟨hq, rfl⟩ | ⟨hq, rfl⟩
      · exact ⟨hen, .inl ⟨hP, hq, rfl⟩⟩
      · exact ⟨hen, .inr (.inl ⟨hP, hq, rfl⟩)⟩
    · obtain ⟨hen, p, hp, rfl⟩ := execI2cStop_eq_next.mp h
      obtain ⟨hq, rfl⟩ := stopPhase_eq_some.mp hp
      exact ⟨hen, .inr (.inr (.inr (.inr (.inr (.inr ⟨hP, hq, rfl⟩)))))⟩
    · obtain ⟨hen, e, he, rfl⟩ := execI2cWrite_eq_next.mp h
      exact ⟨hen, phaseEntry_of_write hP he rfl rfl hne⟩
    · obtain ⟨-, p, hp, rfl⟩ := execI2cReadack_eq_next.mp h
      obtain ⟨hq, rfl⟩ := readAckPhase_eq_some.mp hp
      exact absurd hq.symm hne
    · obtain ⟨hen, p, hp, rfl⟩ := execI2cReadnack_eq_next.mp h
      obtain ⟨hq, rfl⟩ := readNackPhase_eq_some.mp hp
      exact ⟨hen, .inr (.inr (.inr (.inr (.inr (.inl ⟨hP, hq, rfl⟩)))))⟩
  all_goals exact absurd rfl hne

/-- Settles O40: only an issued operation changes the phase, and it does so by `exec_phaseEntry`. -/
theorem phaseMovesByTheTable : Obligations.PhaseMovesByTheTable := by
  intro s t h hne
  show s.i2c.en = true ∧ PhaseEntry (Issues s) s.i2c t.i2c
  cases step_move h with
  | issue i ws t hi he => simpa using exec_phaseEntry hi he (by simpa using hne)
  | engine a ht =>
    obtain ⟨-, -, hphase⟩ := engineTurn_setup a s.turnTaken
    exact absurd (by simpa using hphase) hne
  | _ => exact absurd (by simp) hne

end Sys2Proof.Machine
end

section
/-! PROOFS. The I2C engine and the Bus that answers it (41_i2c.md R140 to R146): each engine step for every Bus, and what a
not-acknowledge changes. -/

namespace Sys2Proof.Machine

/-! ### What the Bus does when no slave is attached (R144) -/

section
variable {s : State} {a : BusAnswer} (hv : s.slave = none)
include hv

theorem busGrants_eq_false_iff : busGrants s a = false ↔ a = .withhold := by simp [busGrants, hv]

theorem busAck_eq_some_iff {k : Ack} : busAck s a = some k ↔ ∃ d, a = .answer k d := by
  cases a <;> simp [busAck, hv]

theorem busData_eq_some_iff {d : Byte} : busData s a = some d ↔ ∃ k, a = .answer k d := by
  cases a <;> simp [busData, hv]

end

/-! ### The engine's turn, by what it owes and what the Bus answers (R140) -/

section
variable {s : State} {a : BusAnswer}

theorem engineTurn_of_stop (hs : s.i2c.stopPend = true) (hg : busGrants s a = true) : engineTurn a s = engStop s := by
  simp [engineTurn, hs, hg]

theorem engineTurn_of_stop_held (hs : s.i2c.stopPend = true) (hg : busGrants s a = false) : engineTurn a s = s := by
  simp [engineTurn, hs, hg]

variable (hs : s.i2c.stopPend = false)
include hs

theorem engineTurn_of_start (hc : s.i2c.cmd = .start) (hg : busGrants s a = true) : engineTurn a s = engStart s := by
  simp [engineTurn, hs, hc, hg]

theorem engineTurn_of_start_held (hc : s.i2c.cmd = .start) (hg : busGrants s a = false) : engineTurn a s = s := by
  simp [engineTurn, hs, hc, hg]

theorem engineTurn_of_tx {k : Ack} (hc : s.i2c.cmd = .tx) (hk : busAck s a = some k) : engineTurn a s = engTx k s := by
  simp [engineTurn, hs, hc, hk]

theorem engineTurn_of_tx_held (hc : s.i2c.cmd = .tx) (hk : busAck s a = none) : engineTurn a s = s := by
  simp [engineTurn, hs, hc, hk]

theorem engineTurn_of_rx {d : Byte} (hc : s.i2c.cmd = .rx) (hd : busData s a = some d) : engineTurn a s = engRx d s := by
  simp [engineTurn, hs, hc, hd]

theorem engineTurn_of_rx_held (hc : s.i2c.cmd = .rx) (hd : busData s a = none) : engineTurn a s = s := by
  simp [engineTurn, hs, hc, hd]

end

/-! ### The steps as whole next states (R140 to R143) -/

theorem engStart_of_started {s : State} (hq : s.i2c.phase = .started) :
    engStart s = ((s.emit .s).setI2c (engineDone s.i2c s.params.st.start)).setSlave (s.slave.map slaveStart) := if_pos hq

theorem engStart_of_repeated {s : State} (hq : s.i2c.phase ≠ .started) :
    engStart s = ((s.emit .sr).setI2c (engineDone s.i2c s.params.st.repStart)).setSlave (s.slave.map slaveStart) :=
  if_neg hq

theorem engRx_of_ack {s : State} (d : Byte) (hk : s.i2c.ackEn = true) :
    engRx d s = ((s.emit (.r d .ack)).setI2c (engineDone { s.i2c with dr := d } s.params.st.rxAck)).setSlave
      (s.slave.map fun v => (slaveRead v).2) := by
  rw [engRx, rxAckBit, rxStatus, if_pos hk, if_pos hk]

theorem engRx_of_nack {s : State} (d : Byte) (hk : s.i2c.ackEn = false) :
    engRx d s = ((s.emit (.r d .nack)).setI2c (engineDone { s.i2c with dr := d } s.params.st.rxNack)).setSlave
      (s.slave.map fun v => (slaveRead v).2) := by
  rw [engRx, rxAckBit, rxStatus, if_neg (by simp [hk]), if_neg (by simp [hk])]

/-- Settles O25: a pending stop is the one thing the engine may perform. -/
theorem engineStopStep : Obligations.EngineStopStep := fun _ _ hs =>
  ⟨fun hg => congrArg Host.Outcome.next (engineTurn_of_stop hs hg),
    fun hg => congrArg Host.Outcome.next (engineTurn_of_stop_held hs hg), fun hv => busGrants_eq_false_iff hv⟩

/-- Settles O26, by the phase the start was issued for. -/
theorem engineStartStep : Obligations.EngineStartStep := by
  refine fun s a hc hs => ⟨fun hg hq => ?start, fun hg hq => ?repeated, fun hg => ?held⟩
  case start =>
    exact congrArg Host.Outcome.next ((engineTurn_of_start hs hc hg).trans (engStart_of_started hq))
  case repeated =>
    exact congrArg Host.Outcome.next ((engineTurn_of_start hs hc hg).trans (engStart_of_repeated (by simp [hq])))
  case held => exact congrArg Host.Outcome.next (engineTurn_of_start_held hs hc hg)

/-- Settles O27: the status value is `txStatus`, for each kind of byte and each answer. -/
theorem engineTransmitStep : Obligations.EngineTransmitStep := by
  refine fun s a hc hs => ⟨fun k hk => ?sent, fun hk => ?held, fun hv k => busAck_eq_some_iff hv⟩
  case sent => exact congrArg Host.Outcome.next (engineTurn_of_tx hs hc hk)
  case held => exact congrArg Host.Outcome.next (engineTurn_of_tx_held hs hc hk)

/-- Settles O28, by the acknowledgement bit that the read was issued with. -/
theorem engineReceiveStep : Obligations.EngineReceiveStep := by
  refine fun s a hc hs => ⟨fun d hd hk => ?ack, fun d hd hk => ?nack, fun hd => ?held,
    fun hv d => busData_eq_some_iff hv⟩
  case ack => exact congrArg Host.Outcome.next ((engineTurn_of_rx hs hc hd).trans (engRx_of_ack d hk))
  case nack => exact congrArg Host.Outcome.next ((engineTurn_of_rx hs hc hd).trans (engRx_of_nack d hk))
  case held => exact congrArg Host.Outcome.next (engineTurn_of_rx_held hs hc hd)

/-! ### A not-acknowledge (R146) -/

theorem execPwmConfigure_eq_refused {s : State} {r : Refusal} :
    execPwmConfigure s = .refused r ↔ s.pwm.cfg = true ∧ r = .pwmReconfigure := refuseIf_eq_refused

theorem execPwmSetduty_eq_refused {l : DutyLevel} {s : State} {r : Refusal} :
    execPwmSetduty l s = .refused r ↔ s.pwm.cfg = false ∧ r = .pwmNotConfigured :=
  andThen_eq_refused.trans setDuty_eq_refused

theorem command_eq_refused {l : DutyLevel} {s : State} {r : Refusal} :
    command l s = .refused r ↔ s.pwm.cfg = false ∧ r = .pwmNotConfigured :=
  andThen_eq_refused.trans setDuty_eq_refused

theorem execTickInit_eq_refused {s : State} {r : Refusal} :
    execTickInit s = .refused r ↔ s.tick.run = true ∧ r = .tickReinit := refuseIf_eq_refused

/-- Whether an operation is legal is read from the three enables, the phase and the device alone (R231). -/
theorem exec_refused_congr {s t : State} (hcfg : t.pwm.cfg = s.pwm.cfg) (hrun : t.tick.run = s.tick.run)
    (hen : t.i2c.en = s.i2c.en) (hphase : t.i2c.phase = s.i2c.phase) (hdev : t.i2c.dev = s.i2c.dev) (i : Instr)
    (r : Refusal) : exec i t = .refused r ↔ exec i s = .refused r := by
  cases i with
  | pwmConfigure => simp only [exec, execPwmConfigure_eq_refused, hcfg]
  | pwmSetduty l => simp only [exec, execPwmSetduty_eq_refused, hcfg]
  | i2cInit => simp only [exec, execI2cInit_eq_refused, hen]
  | i2cStart => simp only [exec, execI2cStart_eq_refused, hen, hphase]
  | i2cStop => simp only [exec, execI2cStop_eq_refused, hen, hphase]
  | i2cWrite b => simp only [exec, execI2cWrite_eq_refused, hen, hphase, hdev]
  | i2cReadack => simp only [exec, execI2cReadack_eq_refused, hen, hphase]
  | i2cReadnack => simp only [exec, execI2cReadnack_eq_refused, hen, hphase]
  | tickInit => simp only [exec, execTickInit_eq_refused, hrun]
  | cmdLow | cmdMed | cmdHigh | cmdOff =>
    simp only [exec, execCmdLow, execCmdMed, execCmdHigh, execCmdOff, command_eq_refused, hcfg]
  | i2cGetstatus | tickRdflag | tickClrflag | tickRdcnt | tickTake | irqEnable | irqDisable => exact ⟨nofun, nofun⟩

/-- Settles O33: the two answers give EngTx with either bit, which differ in the event and the code alone. -/
theorem notAcknowledgeChangesOnlyStatus : Obligations.NotAcknowledgeChangesOnlyStatus := by
  intro s d hc hs hv
  have hsent (k : Ack) : agentStep (.engine (.answer k d)) s = .next (engTx k s) :=
    congrArg Host.Outcome.next (engineTurn_of_tx hs hc ((busAck_eq_some_iff hv).mpr ⟨d, rfl⟩))
  exact ⟨engTx .ack s, engTx .nack s, hsent .ack, hsent .nack, rfl, rfl, rfl, rfl,
    exec_refused_congr rfl rfl rfl rfl rfl⟩

end Sys2Proof.Machine
end

section
/-! PROOFS. The Host that waits for the engine (41_i2c.md R145; 70_reset_and_hazards.md R283): a Bus that withholds holds it
for as long as it does, and a Bus that answers releases it. -/

namespace Sys2Proof.Machine

theorem turn_of_turns {s : State} {x : Turn} {ts : List Turn} (h : s.turns = x :: ts) : s.turn = x := by
  rw [State.turn, h]

theorem run_succ_of_step {s t : State} (n : Nat) (h : step s = .next t) :
    Sys2Proof.core.run (n + 1) s = Sys2Proof.core.run n t := by
  simp only [Host.Core.run, show Sys2Proof.core.step s = .next t from h]

/-- What one step can be while the Host waits: the wait ends, the engine has its turn, or another agent has its own and
writes the running waveform or the tick source at most. -/
theorem step_of_waiting {s : State} {k : WaitKind} (hb : s.busy = some k) :
    (s.i2c.done = true ∧ step s = .next ((s.turnTaken.setBusy none).answer (completionRet s.i2c k))) ∨
      (∃ a, s.turn = .engine a ∧ step s = .next (engineTurn a s.turnTaken)) ∨
      ((∀ a, s.turn ≠ .engine a) ∧ ∃ p c, step s = .next { s.turnTaken with pwm := p, tick := c }) := by
  have hb' : s.turnTaken.busy = some k := by simpa using hb
  unfold step
  cases s.turn with
  | host =>
    have hheld : (∃ p c, .next s.turnTaken = (.next { s.turnTaken with pwm := p, tick := c } : Result)) := ⟨_, _, rfl⟩
    cases hdue : handlerDue s.turnTaken with
    | true => exact .inr (.inr ⟨nofun, by rwa [agentStep, hostTurn_of_due hdue]⟩)
    | false =>
      cases hd : s.turnTaken.i2c.done with
      | true => exact .inl ⟨by simpa using hd, by simpa [agentStep] using hostTurn_of_done hdue hb' hd⟩
      | false => exact .inr (.inr ⟨nofun, by rwa [agentStep, hostTurn_of_waiting hb' hd]⟩)
  | dispatcher => exact .inr (.inr ⟨nofun, _, _, dispatcherTurn_held (.inr (.inl (by simp [hb])))⟩)
  | handler => exact .inr (.inr ⟨nofun, _, _, congrArg Host.Outcome.next (takeInterrupt_frame _)⟩)
  | tickTimer => exact .inr (.inr ⟨nofun, _, _, congrArg Host.Outcome.next (tickTimerStep_frame _)⟩)
  | pwmTimer => exact .inr (.inr ⟨nofun, _, _, congrArg Host.Outcome.next (pwmTimerStep_frame _)⟩)
  | engine a => exact .inr (.inl ⟨a, rfl, rfl⟩)

/-! ### A Bus that withholds -/

/-- Without a slave a withheld engine performs nothing (R144). -/
theorem engineTurn_withhold {s : State} (hv : s.slave = none) : engineTurn .withhold s = s := by
  have hg : busGrants s .withhold = false := (busGrants_eq_false_iff hv).mpr rfl
  have hk : busAck s .withhold = none := by simp [busAck, hv]
  have hd : busData s .withhold = none := by simp [busData, hv]
  cases hs : s.i2c.stopPend with
  | true => exact engineTurn_of_stop_held hs hg
  | false =>
    cases hc : s.i2c.cmd with
    | none => exact engineTurn_of_nothing_owed _ hs hc
    | start => exact engineTurn_of_start_held hs hc hg
    | tx => exact engineTurn_of_tx_held hs hc hk
    | rx => exact engineTurn_of_rx_held hs hc hd

/-- A step while the Bus withholds leaves everything of the wait as it is. -/
theorem step_of_withheld {s : State} {k : WaitKind} (hv : s.slave = none) (hb : s.busy = some k) (hd : s.i2c.done = false)
    (ht : ∀ a d, s.turn ≠ .engine (.answer a d)) : ∃ p c, step s = .next { s.turnTaken with pwm := p, tick := c } := by
  rcases step_of_waiting hb with ⟨hd', -⟩ | ⟨a, hturn, hstep⟩ | ⟨-, hstep⟩
  · simp [hd] at hd'
  · cases a with
    | withhold =>
      rw [engineTurn_withhold (by simpa using hv)] at hstep
      exact ⟨_, _, hstep⟩
    | answer a d => exact absurd hturn (ht a d)
  · exact hstep

/-- Settles O31, by induction on the number of steps, each of them one of `step_of_withheld`. -/
theorem withheldBusHoldsHost : Obligations.WithheldBusHoldsHost := by
  intro n
  induction n with
  | zero => exact fun s k _ hb _ _ _ => ⟨s, rfl, hb, rfl, rfl, rfl, rfl, rfl, rfl⟩
  | succ n ih =>
    intro s k hv hb hd hn hw
    obtain ⟨x, ts, hts⟩ := List.exists_cons_of_length_pos (Nat.zero_lt_of_lt hn)
    rw [hts] at hn hw
    obtain ⟨p, c, hstep⟩ := step_of_withheld hv hb hd (by simpa [turn_of_turns hts] using hw x)
    obtain ⟨t, hrun, ht⟩ := ih { s.turnTaken with pwm := p, tick := c } k (by simpa using hv) (by simpa using hb)
      (by simpa using hd) (by simpa [hts] using hn) (by simpa [hts] using fun y hy => hw y (List.mem_cons_of_mem _ hy))
    exact ⟨t, (run_succ_of_step n hstep).trans hrun, by simpa using ht⟩

/-! ### A Bus that answers -/

/-- How many answers of the Bus the pending command still needs: a stop before it takes the first (R140). -/
def answersOwed (i : I2c) : Nat := if i.cmd = .none then 0 else if i.stopPend then 2 else 1

/-- The engine's turn with an answer of the Bus. -/
def isAnswered : Turn → Bool
  | .engine (.answer _ _) => true
  | _ => false

theorem answersOwed_of_none {i : I2c} (h : i.cmd = .none) : answersOwed i = 0 := if_pos h

theorem answersOwed_le_two (i : I2c) : answersOwed i ≤ 2 := by
  unfold answersOwed
  split_ifs <;> omega

theorem answersOwed_le_one {i : I2c} (h : i.stopPend = false) : answersOwed i ≤ 1 := by
  unfold answersOwed
  split_ifs <;> simp_all

theorem cmd_of_answersOwed_eq_zero {i : I2c} (h : answersOwed i = 0) : i.cmd = .none := by
  unfold answersOwed at h
  split_ifs at h
  assumption

theorem answersOwed_engStop {s : State} (hs : s.i2c.stopPend = true) :
    answersOwed (engStop s).i2c = answersOwed s.i2c - 1 := by
  by_cases hc : s.i2c.cmd = .none <;> simp [answersOwed, engStop, hc, hs]

theorem engStart_cmd (s : State) : (engStart s).i2c.cmd = .none := by
  unfold engStart
  split <;> rfl

/-- No turn of the engine adds to what is owed. -/
theorem engineTurn_answersOwed_le (a : BusAnswer) (s : State) :
    answersOwed (engineTurn a s).i2c ≤ answersOwed s.i2c := by
  rcases engineTurn_cases a s with h | ⟨hs, -, h⟩ | ⟨-, -, -, h⟩ | ⟨-, -, k, -, h⟩ | ⟨-, -, d, -, h⟩ <;> rw [h]
  · rw [answersOwed_engStop hs]
    exact Nat.sub_le _ _
  · rw [answersOwed_of_none (engStart_cmd s)]
    exact Nat.zero_le _
  · exact Nat.zero_le _
  · exact Nat.zero_le _

/-- An answer of the Bus, or of the slave in its place, lets the engine perform what it has to (R140 to R144). -/
theorem engineTurn_answersOwed_of_answer (k : Ack) (d : Byte) (s : State) :
    answersOwed (engineTurn (.answer k d) s).i2c = answersOwed s.i2c - 1 := by
  have hg : busGrants s (.answer k d) = true := by cases hv : s.slave <;> simp [busGrants, hv]
  obtain ⟨k', hk⟩ : ∃ k', busAck s (.answer k d) = some k' := by cases hv : s.slave <;> simp [busAck, hv]
  obtain ⟨d', hd⟩ : ∃ d', busData s (.answer k d) = some d' := by cases hv : s.slave <;> simp [busData, hv]
  cases hs : s.i2c.stopPend with
  | true => rw [engineTurn_of_stop hs hg, answersOwed_engStop hs]
  | false =>
    have hdone : (engineTurn (.answer k d) s).i2c.cmd = .none := by
      cases hc : s.i2c.cmd with
      | none => rw [engineTurn_of_nothing_owed _ hs hc, hc]
      | start => rw [engineTurn_of_start hs hc hg, engStart_cmd]
      | tx => rw [engineTurn_of_tx hs hc hk]; rfl
      | rx => rw [engineTurn_of_rx hs hc hd]; rfl
    have hone := answersOwed_le_one hs
    rw [answersOwed_of_none hdone]
    omega

/-- Within `n` steps the waiting Host is released, with one completion. -/
def ReleasedWithin (n : Nat) (s : State) : Prop :=
  ∃ m t ret, m ≤ n ∧ Sys2Proof.core.run m s = .next t ∧ t.busy = none ∧ t.completions = s.completions ++ [ret]

theorem ReleasedWithin.of_step {n : Nat} {s u : State} (h : step s = .next u) (hc : u.completions = s.completions)
    (hr : ReleasedWithin n u) : ReleasedWithin (n + 1) s := by
  obtain ⟨m, t, ret, hm, hrun, hfree, ht⟩ := hr
  exact ⟨m + 1, t, ret, by omega, (run_succ_of_step m h).trans hrun, hfree, by rw [ht, hc]⟩

theorem ReleasedWithin.of_release {n : Nat} {s t : State} {ret : Option Byte} (h : step s = .next t) (hfree : t.busy = none)
    (hc : t.completions = s.completions ++ [ret]) : ReleasedWithin (n + 1) s :=
  ⟨1, t, ret, by omega, run_succ_of_step 0 h, hfree, hc⟩

/-- A step of the wait: it releases the Host, or the wait goes on with an answer less owed if the Bus has given one. -/
theorem step_releases_or_waits {s : State} (hb : s.busy ≠ none) :
    (∃ t ret, step s = .next t ∧ t.busy = none ∧ t.completions = s.completions ++ [ret]) ∨
      ∃ u, step s = .next u ∧ u.busy = s.busy ∧ u.completions = s.completions ∧ u.turns = s.turns.tail ∧
        answersOwed u.i2c ≤ answersOwed s.i2c - if isAnswered s.turn then 1 else 0 := by
  obtain ⟨k, hk⟩ := Option.ne_none_iff_exists'.mp hb
  rcases step_of_waiting hk with ⟨-, hstep⟩ | ⟨a, ht, hstep⟩ | ⟨ht, p, c, hstep⟩
  · exact .inl ⟨_, completionRet s.i2c k, hstep, rfl, by simp⟩
  · refine .inr ⟨_, hstep, ?_⟩
    have howed : answersOwed (engineTurn a s.turnTaken).i2c ≤ answersOwed s.i2c - if isAnswered s.turn then 1 else 0 := by
      cases a with
      | withhold => simpa [ht, isAnswered] using engineTurn_answersOwed_le .withhold s.turnTaken
      | answer k d => simpa [ht, isAnswered] using (engineTurn_answersOwed_of_answer k d s.turnTaken).le
    rw [engineTurn_frame] at howed ⊢
    simpa using howed
  · have hno : isAnswered s.turn = false := by
      cases hturn : s.turn with
      | engine a => exact absurd hturn (ht a)
      | _ => rfl
    exact .inr ⟨_, hstep, by simp [hno]⟩

theorem handlerDue_takeInterrupt (s : State) : handlerDue (takeInterrupt s) = false := by
  rcases takeInterrupt_cases s with ⟨-, h⟩ | ⟨hd, h⟩ <;> rw [h]
  · simp [handlerDue, handlerTick_pend]
  · exact hd

/-- After its turn the Handler is not due, and it has written the tick source alone. -/
theorem step_of_handler {s : State} (ht : s.turn = .handler) :
    ∃ c, step s = .next { s.turnTaken with tick := c } ∧ handlerDue { s.turnTaken with tick := c } = false := by
  refine ⟨(takeInterrupt s.turnTaken).tick, ?_, ?_⟩
  · rw [step, ht, agentStep, ← takeInterrupt_frame]
  · rw [← takeInterrupt_frame]
    exact handlerDue_takeInterrupt _

/-- The Host's turn with the bit set and no interrupt due completes the operation (R81). -/
theorem step_host_of_done {s : State} {k : WaitKind} (ht : s.turn = .host) (hdue : handlerDue s = false)
    (hb : s.busy = some k) (hd : s.i2c.done = true) :
    step s = .next ((s.turnTaken.setBusy none).answer (completionRet s.turnTaken.i2c k)) := by
  rw [step, ht]
  exact hostTurn_of_done (by simpa using hdue) (by simpa using hb) (by simpa using hd)

/-- With no answer owed any more the Host is released by the next turns of the Handler and of itself. -/
theorem releasedWithin_two {s : State} (hi : Inv s) (hb : s.busy ≠ none) (howed : answersOwed s.i2c = 0) {rest : List Turn}
    (hts : s.turns = .handler :: .host :: rest) : ReleasedWithin 2 s := by
  obtain ⟨k, hk⟩ := Option.ne_none_iff_exists'.mp hb
  have hd : s.i2c.done = true := (hi.wait.done_or_pending hk).resolve_right (by simp [cmd_of_answersOwed_eq_zero howed])
  obtain ⟨c, hhandler, hdue⟩ := step_of_handler (turn_of_turns hts)
  have hturns : ({ s.turnTaken with tick := c } : State).turns = .host :: rest := by simp [hts]
  have hhost := step_host_of_done (k := k) (turn_of_turns hturns) hdue (by simpa using hk) (by simpa using hd)
  exact .of_step hhandler (by simp) (.of_release (ret := completionRet s.i2c k) hhost rfl (by simp))

/-- A script that gives the Bus's answers as often as they are owed, and then a turn to the Handler and to the Host, releases
the Host; by induction on the turns before those two. -/
theorem releasedWithin_of_answers (ts rest : List Turn) {s : State} (hi : Inv s) (hb : s.busy ≠ none)
    (hts : s.turns = ts ++ .handler :: .host :: rest) (howed : answersOwed s.i2c ≤ ts.countP isAnswered) :
    ReleasedWithin (ts.length + 2) s := by
  induction ts generalizing s with
  | nil => exact releasedWithin_two hi hb (Nat.le_zero.mp howed) hts
  | cons x ts ih =>
    rcases step_releases_or_waits hb with ⟨t, ret, hstep, hfree, hc⟩ | ⟨u, hstep, hbusy, hc, hturns, hu⟩
    · exact .of_release hstep hfree hc
    · have hrest := ih (invariantKeptByEveryStep s u hi hstep).1 (hbusy ▸ hb) (by rw [hturns, hts]; rfl) (by
        rw [turn_of_turns hts] at hu
        rw [List.countP_cons] at howed
        omega)
      simpa using hrest.of_step hstep hc

/-- Settles O32: a pending command owes two answers at most. -/
theorem responsiveBusReleasesHost : Obligations.ResponsiveBusReleasesHost := by
  intro s before between after rest k k' d d' hi hb hts
  have hreleased := releasedWithin_of_answers
    (before ++ .engine (.answer k d) :: (between ++ .engine (.answer k' d') :: after)) rest hi hb (by simp [hts])
    (by
      have htwo := answersOwed_le_two s.i2c
      simp only [List.countP_append, List.countP_cons, isAnswered, if_true]
      omega)
  obtain ⟨m, t, ret, hm, ht⟩ := hreleased
  exact ⟨m, t, ret, by simp at hm; omega, ht⟩

end Sys2Proof.Machine
end

section
/-! PROOFS. The transactions of 42_i2c_transactions.md with an eager engine (95_test_vectors.md), and the axis value (R169).
An operation issued, performed and completed at once is one exchange on the bus; a transaction is a dialogue of exchanges
and a stop, whatever Bus is at the other end. -/

namespace Sys2Proof.Machine

/-! ### The axis value (R169) -/

/-- The high byte counts 256 times. -/
theorem toNat_append_byte (high low : Byte) : (high ++ low).toNat = high.toNat * 256 + low.toNat := by
  rw [BitVec.toNat_append, ← Nat.shiftLeft_add_eq_or_of_lt low.isLt, Nat.shiftLeft_eq]

theorem int16_eq (high low : Byte) : int16 high low =
    if high.toNat * 256 + low.toNat < 32768 then (high.toNat * 256 + low.toNat : Int)
    else (high.toNat * 256 + low.toNat : Int) - 65536 := by
  rw [int16, BitVec.toInt_eq_toNat_cond, toNat_append_byte]
  split_ifs <;> omega

/-- Settles O60: the range follows from the arithmetic of `int16_eq`, and a high byte from 0x80 on makes it negative. -/
theorem axisAssembly : Obligations.AxisAssembly := by
  refine ⟨int16_eq, fun high low => ?range, by decide, by decide, by decide, by decide, by decide⟩
  have hhigh := high.isLt
  have hlow := low.isLt
  rw [int16_eq, BitVec.le_def, show (0x80 : Byte).toNat = 128 from rfl]
  split_ifs <;> omega

/-! ### The address bytes (R61) -/

@[simp] theorem deviceOf_addrW (dev : DevAddr) : deviceOf (addrW dev) = dev := by
  revert dev
  decide

@[simp] theorem deviceOf_addrR (dev : DevAddr) : deviceOf (addrR dev) = dev := by
  revert dev
  decide

@[simp] theorem isRead_addrW (dev : DevAddr) : isRead (addrW dev) = false := by
  revert dev
  decide

@[simp] theorem isRead_addrR (dev : DevAddr) : isRead (addrR dev) = true := by
  revert dev
  decide

/-! ### What the Bus does in an exchange (R144, R65)

Without a slave it does what the engine's turn carries; a slave answers for itself, and moves on. -/

/-- The Bus lets a start or a stop through. -/
def Grants (a : BusAnswer) (v : Option RefSlave) : Prop := v = none → a ≠ .withhold

/-- The Bus answers the byte `b` with `k`, and its device is `v'` after it. -/
inductive Accepts (b : Byte) : BusAnswer → Option RefSlave → Ack → Option RefSlave → Prop where
  | free (k : Ack) (d : Byte) : Accepts b (.answer k d) none k none
  | slave {v u : RefSlave} {k : Ack} (a : BusAnswer) (h : slaveWrite v b = (k, u)) : Accepts b a (some v) k (some u)

/-- The Bus supplies the byte `d`, and its device is `v'` after it. -/
inductive Supplies : BusAnswer → Option RefSlave → Byte → Option RefSlave → Prop where
  | free (k : Ack) (d : Byte) : Supplies (.answer k d) none d none
  | slave {v u : RefSlave} {d : Byte} (a : BusAnswer) (h : slaveRead v = (d, u)) : Supplies a (some v) d (some u)

theorem grants_free (k : Ack) (d : Byte) (v : Option RefSlave) : Grants (.answer k d) v := fun _ => nofun

theorem grants_slave (a : BusAnswer) (v : RefSlave) : Grants a (some v) := nofun

section
variable {s : State} {a : BusAnswer}

theorem Grants.busGrants (h : Grants a s.slave) : busGrants s a = true := by
  cases hv : s.slave with
  | none => simpa [Machine.busGrants, hv] using h hv
  | some v => simp [Machine.busGrants, hv]

theorem Accepts.engineTurn {b : Byte} {k : Ack} {v' : Option RefSlave} (h : Accepts b a s.slave k v')
    (hp : s.i2c.stopPend = false) (hc : s.i2c.cmd = .tx) (hb : s.i2c.dr = b) :
    engineTurn a s = ((s.emit (.w b k)).setI2c (engineDone s.i2c (txStatus s.params.st s.i2c.txkind k))).setSlave v' := by
  subst hb
  generalize hv : s.slave = v at h
  cases h with
  | free k d => rw [engineTurn_of_tx hp hc ((busAck_eq_some_iff hv).mpr ⟨d, rfl⟩), engTx, hv]; rfl
  | slave a h => rw [engineTurn_tx_of_slave hv a hp hc, engTx, hv, Option.map_some, h]

theorem Supplies.engineTurn {d : Byte} {v' : Option RefSlave} (h : Supplies a s.slave d v')
    (hp : s.i2c.stopPend = false) (hc : s.i2c.cmd = .rx) :
    engineTurn a s = ((s.emit (.r d (rxAckBit s.i2c))).setI2c
      (engineDone { s.i2c with dr := d } (rxStatus s.params.st s.i2c))).setSlave v' := by
  generalize hv : s.slave = v at h
  cases h with
  | free k d => rw [engineTurn_of_rx hp hc ((busData_eq_some_iff hv).mpr ⟨k, rfl⟩), engRx, hv]; rfl
  | slave a h => rw [engineTurn_rx_of_slave hv a hp hc, engRx, hv, Option.map_some, h]

end

/-! ### One operation: issued, performed and completed at once -/

/-- What the operations of a transaction move: the phase and the device of the sequencer, and the device on the bus. -/
structure Stage where
  phase : Phase
  dev : Option DevAddr
  slave : Option RefSlave

/-- The blocking operation that leads from one stage to another by an entry of the table of R121, with its bus event and its
result, the Bus answering the engine with `a`. -/
inductive Exchange (a : BusAnswer) : Instr → Stage → BusEvent → Option Byte → Stage → Prop where
  | start {q p : Phase} {d : Option DevAddr} {v : Option RefSlave} (hq : startPhase q = some p) (h : Grants a v) :
      Exchange a .i2cStart ⟨q, d, v⟩ (if p = .started then .s else .sr) none ⟨p, d, v.map slaveStart⟩
  | write {q : Phase} {d : Option DevAddr} {v v' : Option RefSlave} {b : Byte} {k : Ack} {e : WriteEffect}
      (he : writeEffect q d b = .ok e) (h : Accepts b a v k v') :
      Exchange a (.i2cWrite b) ⟨q, d, v⟩ (.w b k) none ⟨e.phase, e.dev, v'⟩
  | readAck {d : Option DevAddr} {v v' : Option RefSlave} {x : Byte} (h : Supplies a v x v') :
      Exchange a .i2cReadack ⟨.mr, d, v⟩ (.r x .ack) (some x) ⟨.mr, d, v'⟩
  | readNack {d : Option DevAddr} {v v' : Option RefSlave} {x : Byte} (h : Supplies a v x v') :
      Exchange a .i2cReadnack ⟨.mr, d, v⟩ (.r x .nack) (some x) ⟨.mrLast, d, v'⟩

/-- Between two operations: the sequencer stands at the stage `w` and owes the bus nothing, and the Host may issue; the bus
trace is `tr`, the completions are `cs`, the words `ws` and the turns `ts` are to come. -/
structure Between (w : Stage) (tr : List BusEvent) (cs : List (Option Byte)) (ws : List OpWord) (ts : List Turn)
    (s : State) : Prop where
  en : s.i2c.en = true
  phase : s.i2c.phase = w.phase
  dev : s.i2c.dev = w.dev
  cmd : s.i2c.cmd = .none
  stopPend : s.i2c.stopPend = false
  busy : s.busy = none
  halted : s.halted = false
  due : handlerDue s = false
  slave : s.slave = w.slave
  trace : s.trace = tr
  completions : s.completions = cs
  words : s.words = ws
  turns : s.turns = ts

section
variable {s : State} {w w' : Stage} {tr : List BusEvent} {cs : List (Option Byte)} {ws : List OpWord} {ts : List Turn}

/-- The shape of every blocking operation: the issue triggers `m` on the sequencer as it sets it to `u` and makes the Host
wait, the engine performs the command with the event `e`, and the Host takes the result. -/
theorem Between.run_blocking {i : Instr} {c : OpWord} {a : BusAnswer} {m : EngineCmd} {k : WaitKind} {e : BusEvent}
    {v' : Option RefSlave} (u : I2c) (x : Byte) (h : Between w tr cs (c :: ws) (.host :: .engine a :: .host :: ts) s)
    (hc : decodeOp16 c = .op i) (hen : u.en = true) (hp : u.stopPend = false)
    (hissue : ∀ s₀ : State, s₀.i2c = s.i2c → exec i s₀ = .next ((s₀.setI2c (trigger u m)).setBusy (some k)))
    (hperform : ∀ s₁ : State, s₁.i2c = trigger u m → s₁.i2c.stopPend = false → s₁.i2c.cmd = m → s₁.slave = w.slave →
      ∃ st, engineTurn a s₁ = ((s₁.emit e).setI2c (engineDone { trigger u m with dr := x } st)).setSlave v') :
    ∃ t, (∀ n, Sys2Proof.core.run (n + 3) s = Sys2Proof.core.run n t) ∧
      Between ⟨u.phase, u.dev, v'⟩ (tr ++ [e]) (cs ++ [completionRet { u with dr := x } k]) ws ts t := by
  have hissued := (step_of_word h.due h.busy h.halted (turn_of_turns h.turns) h.words hc).trans
    (hissue _ (by simp))
  set s₁ : State := ((s.turnTaken.setWords ws).setI2c (trigger u m)).setBusy (some k) with hs₁
  have hturns₁ : s₁.turns = .engine a :: .host :: ts := by simp [hs₁, h.turns]
  obtain ⟨st, hperf⟩ := hperform s₁.turnTaken (by simp [hs₁]) (by simpa [hs₁, trigger] using hp) (by simp [hs₁, trigger])
    (by simp [hs₁, h.slave])
  have hperformed : step s₁ = .next (engineTurn a s₁.turnTaken) := by rw [step, turn_of_turns hturns₁, agentStep]
  rw [hperf] at hperformed
  set s₂ : State := ((s₁.turnTaken.emit e).setI2c (engineDone { trigger u m with dr := x } st)).setSlave v' with hs₂
  have hturns₂ : s₂.turns = .host :: ts := by simp [hs₂, hturns₁]
  have hdue₂ : handlerDue s₂ = false := by simpa [handlerDue, hs₂, hs₁] using h.due
  have hcompleted := step_host_of_done (turn_of_turns hturns₂) hdue₂ (k := k) (by simp [hs₂, hs₁]) rfl
  refine ⟨(s₂.turnTaken.setBusy none).answer (completionRet s₂.turnTaken.i2c k), fun n => ?run, ?between⟩
  case run => rw [run_succ_of_step _ hissued, run_succ_of_step _ hperformed, run_succ_of_step _ hcompleted]
  case between =>
    constructor
    case due => simpa [handlerDue] using hdue₂
    case completions => cases k <;> simp [hs₂, hs₁, engineDone, trigger, completionRet, h.completions]
    all_goals simp [hs₂, hs₁, engineDone, trigger, hen, hp, h.halted, h.trace, h.turns]

/-- An exchange takes three turns: the Host's, the engine's and the Host's. -/
theorem Between.run_exchange {i : Instr} {c : OpWord} {a : BusAnswer} {e : BusEvent} {r : Option Byte}
    (h : Between w tr cs (c :: ws) (.host :: .engine a :: .host :: ts) s) (hc : decodeOp16 c = .op i)
    (hx : Exchange a i w e r w') :
    ∃ t, (∀ n, Sys2Proof.core.run (n + 3) s = Sys2Proof.core.run n t) ∧ Between w' (tr ++ [e]) (cs ++ [r]) ws ts t := by
  obtain ⟨q, d, v⟩ := w
  have hen := h.en
  have hp := h.stopPend
  have hphase : s.i2c.phase = q := h.phase
  obtain rfl : s.i2c.dev = d := h.dev
  cases hx with
  | @start _ p _ _ hq hg =>
    refine h.run_blocking (k := .start) { s.i2c with phase := p } s.i2c.dr hc hen hp
      (fun s₀ hs₀ => execI2cStart_eq_next.mpr ⟨by rwa [hs₀], p, by rwa [hs₀, hphase], by rw [hs₀]⟩)
      fun s₁ hi hp₁ hc₁ hv => ?_
    have hq₁ : s₁.i2c.phase = p := congrArg I2c.phase hi
    obtain rfl : s₁.slave = v := hv
    rw [engineTurn_of_start hp₁ hc₁ hg.busGrants, engStart, hq₁, hi]
    split <;> exact ⟨_, rfl⟩
  | @write _ _ _ v' b k e he ha =>
    refine h.run_blocking (k := .tx) { s.i2c with dr := b, txkind := e.kind, phase := e.phase, dev := e.dev } b hc hen hp
      (fun s₀ hs₀ => execI2cWrite_eq_next.mpr ⟨by rwa [hs₀], e, by rwa [hs₀, hphase], by rw [hs₀]⟩)
      fun s₁ hi hp₁ hc₁ hv => ?_
    obtain rfl : s₁.slave = v := hv
    rw [ha.engineTurn hp₁ hc₁ (congrArg I2c.dr hi), hi]
    exact ⟨_, rfl⟩
  | @readAck _ _ v' x hs =>
    refine h.run_blocking (k := .rxAck) { s.i2c with ackEn := true, phase := .mr } x hc hen hp
      (fun s₀ hs₀ => execI2cReadack_eq_next.mpr ⟨by rwa [hs₀], _, by rw [hs₀, hphase]; rfl, by rw [hs₀]⟩)
      fun s₁ hi hp₁ hc₁ hv => ?_
    obtain rfl : s₁.slave = v := hv
    rw [hs.engineTurn hp₁ hc₁, hi]
    exact ⟨_, rfl⟩
  | @readNack _ _ v' x hs =>
    refine h.run_blocking (k := .rxNack) { s.i2c with ackEn := false, phase := .mrLast } x hc hen hp
      (fun s₀ hs₀ => execI2cReadnack_eq_next.mpr ⟨by rwa [hs₀], _, by rw [hs₀, hphase]; rfl, by rw [hs₀]⟩)
      fun s₁ hi hp₁ hc₁ hv => ?_
    obtain rfl : s₁.slave = v := hv
    rw [hs.engineTurn hp₁ hc₁, hi]
    exact ⟨_, rfl⟩

/-- A stop completes when it is issued and is performed at the engine's next turn (R127, R140). -/
theorem Between.run_stop {c : OpWord} {a : BusAnswer} (h : Between w tr cs (c :: ws) (.host :: .engine a :: ts) s)
    (hc : decodeOp16 c = .op .i2cStop) (hq : w.phase = .mt ∨ w.phase = .mrLast) (hg : Grants a w.slave) :
    ∃ t, (∀ n, Sys2Proof.core.run (n + 2) s = Sys2Proof.core.run n t) ∧
      Between ⟨.idle, none, w.slave.map slaveStop⟩ (tr ++ [.p]) (cs ++ [none]) ws ts t := by
  have hissued := (step_of_word h.due h.busy h.halted (turn_of_turns h.turns) h.words hc).trans
    (execI2cStop_eq_next.mpr ⟨by simpa using h.en, .idle, stopPhase_eq_some.mpr ⟨by simpa [h.phase] using hq, rfl⟩, rfl⟩)
  set s₁ : State := ((s.turnTaken.setWords ws).setI2c _).answer none with hs₁
  have hturns₁ : s₁.turns = .engine a :: ts := by simp [hs₁, h.turns]
  have hg₁ : Grants a s₁.turnTaken.slave := by simpa [hs₁, h.slave] using hg
  have hperformed : step s₁ = .next (engStop s₁.turnTaken) := by
    rw [step, turn_of_turns hturns₁, agentStep, engineTurn_of_stop (by simp [hs₁]) hg₁.busGrants]
  refine ⟨engStop s₁.turnTaken, fun n => ?run, ?between⟩
  case run => rw [run_succ_of_step _ hissued, run_succ_of_step _ hperformed]
  case between =>
    constructor
    case due => simpa [handlerDue, engStop, hs₁] using h.due
    all_goals simp [engStop, hs₁, h.en, h.cmd, h.busy, h.halted, h.slave, h.trace, h.completions, h.turns]

end

/-! ### Exchanges one after another -/

/-- The blocking operations `is` one after another, the Bus answering with `as`: from one stage to another, with their bus
events and their results. -/
inductive Dialogue : List BusAnswer → List Instr → Stage → List BusEvent → List (Option Byte) → Stage → Prop where
  | nil (w : Stage) : Dialogue [] [] w [] [] w
  | cons {a : BusAnswer} {i : Instr} {w w' w'' : Stage} {e : BusEvent} {r : Option Byte} {as : List BusAnswer}
      {is : List Instr} {es : List BusEvent} {rs : List (Option Byte)} (h : Exchange a i w e r w')
      (hd : Dialogue as is w' es rs w'') : Dialogue (a :: as) (i :: is) w (e :: es) (r :: rs) w''

section
variable {as as' : List BusAnswer} {is is' : List Instr} {w w' w'' : Stage} {es es' : List BusEvent}
  {rs rs' : List (Option Byte)}

theorem Dialogue.append (h : Dialogue as is w es rs w') (h' : Dialogue as' is' w' es' rs' w'') :
    Dialogue (as ++ as') (is ++ is') w (es ++ es') (rs ++ rs') w'' := by
  induction h with
  | nil => exact h'
  | cons hx _ ih => exact .cons hx (ih h')

theorem Dialogue.single {a : BusAnswer} {i : Instr} {e : BusEvent} {r : Option Byte} (h : Exchange a i w e r w') :
    Dialogue [a] [i] w [e] [r] w' := .cons h (.nil w')

/-- The operations of a transaction are words of the operation port. -/
theorem Exchange.encode {a : BusAnswer} {i : Instr} {e : BusEvent} {r : Option Byte} (h : Exchange a i w e r w') :
    ∃ c, encode i = .op16 c := by
  cases h <;> exact ⟨_, rfl⟩

theorem opWords_cons {i : Instr} {c : OpWord} (h : encode i = .op16 c) (is : List Instr) :
    opWords (i :: is) = c :: opWords is := by simp [opWords, h]

theorem opWords_append (is is' : List Instr) : opWords (is ++ is') = opWords is ++ opWords is' := List.filterMap_append

/-- A dialogue takes three turns for each exchange. -/
theorem Dialogue.run (h : Dialogue as is w es rs w') {s : State} {tr : List BusEvent} {cs : List (Option Byte)}
    {ws : List OpWord} {ts : List Turn}
    (hs : Between w tr cs (opWords is ++ ws) (as.flatMap (fun a => [.host, .engine a, .host]) ++ ts) s) :
    ∃ t, (∀ n, Sys2Proof.core.run (n + 3 * as.length) s = Sys2Proof.core.run n t) ∧
      Between w' (tr ++ es) (cs ++ rs) ws ts t := by
  induction h generalizing s tr cs with
  | nil => exact ⟨s, fun _ => rfl, by simpa [opWords] using hs⟩
  | @cons a i w w' _ e r as is es rs hx _ ih =>
    obtain ⟨c, hc⟩ := hx.encode
    rw [opWords_cons hc] at hs
    obtain ⟨u, hrun, hu⟩ := hs.run_exchange (decodeOp16_eq_op_iff.mpr hc) hx
    obtain ⟨t, hrun', ht⟩ := ih hu
    refine ⟨t, fun n => ?_, by simpa using ht⟩
    rw [← hrun' n, ← hrun, List.length_cons, Nat.mul_succ, ← Nat.add_assoc]

/-- A transaction: a dialogue from the free bus to a phase that allows a stop, and the stop, which frees the bus again. -/
theorem Dialogue.run_transaction {s : State} {a : BusAnswer} {ws : List OpWord} {rest : List Turn} (hs : BusFree s)
    (h : Dialogue as is ⟨.idle, s.i2c.dev, s.slave⟩ es rs w') (hq : w'.phase = .mt ∨ w'.phase = .mrLast)
    (hg : Grants a w'.slave) :
    ∃ t, Sys2Proof.core.run (3 * as.length + 2)
        { s with words := opWords (is ++ [.i2cStop]) ++ ws, turns := eagerTurns as a ++ rest } = .next t ∧
      BusFree t ∧ t.words = ws ∧ t.trace = s.trace ++ es ++ [.p] ∧ t.completions = s.completions ++ rs ++ [none] ∧
      t.slave = w'.slave.map slaveStop := by
  obtain ⟨hen, hphase, hcmd, hp, hb, hh, hdue⟩ := hs
  obtain ⟨u, hrun, hu⟩ := h.run (tr := s.trace) (cs := s.completions) (ws := opWords [.i2cStop] ++ ws)
    (ts := .host :: .engine a :: rest)
    (s := { s with words := opWords (is ++ [.i2cStop]) ++ ws, turns := eagerTurns as a ++ rest })
    ⟨hen, hphase, rfl, hcmd, hp, hb, hh, hdue, rfl, rfl, rfl, by simp [opWords_append], by simp [eagerTurns]⟩
  obtain ⟨t, hrun', ht⟩ := hu.run_stop (by decide) hq hg
  refine ⟨t, ?_, ⟨ht.en, ht.phase, ht.cmd, ht.stopPend, ht.busy, ht.halted, ht.due⟩, ht.words, ht.trace,
    ht.completions, ht.slave⟩
  rw [Nat.add_comm, hrun 2, hrun' 0]
  rfl

end

/-! ### The transactions over any Bus -/

section
variable {dev : DevAddr} {reg data last : Byte} {v v₁ v₂ v₃ v₄ v₅ : Option RefSlave} {a a₀ a₁ a₂ a₃ a₄ b : BusAnswer}
  {k₁ k₂ k₃ : Ack} {as : List BusAnswer} {acked : List Byte} {d : Option DevAddr}

theorem exchange_addrW {a : BusAnswer} {k : Ack} {v' : Option RefSlave} (h : Accepts (addrW dev) a v k v') :
    Exchange a (.i2cWrite (addrW dev)) ⟨.started, d, v⟩ (.w (addrW dev) k) none ⟨.mt, some dev, v'⟩ :=
  .write (e := ⟨.mt, some dev, .addrW⟩) (writeEffect_eq_ok.mpr (.inr (.inl (by simp)))) h

theorem exchange_addrR {a : BusAnswer} {k : Ack} {v' : Option RefSlave} (h : Accepts (addrR dev) a v k v') :
    Exchange a (.i2cWrite (addrR dev)) ⟨.repStarted, some dev, v⟩ (.w (addrR dev) k) none ⟨.mr, some dev, v'⟩ :=
  .write (e := ⟨.mr, some dev, .addrR⟩) (writeEffect_eq_ok.mpr (.inr (.inr (.inl (by simp))))) h

theorem exchange_data {a : BusAnswer} {k : Ack} {v' : Option RefSlave} {b : Byte} (h : Accepts b a v k v') :
    Exchange a (.i2cWrite b) ⟨.mt, d, v⟩ (.w b k) none ⟨.mt, d, v'⟩ :=
  .write (e := ⟨.mt, d, .data⟩) (writeEffect_eq_ok.mpr (.inr (.inr (.inr (by simp))))) h

/-- The write phase that opens a transaction: a start, the address byte and the register address. -/
theorem dialogue_writePhase (h₀ : Grants a₀ v) (h₁ : Accepts (addrW dev) a₁ (v.map slaveStart) k₁ v₁)
    (h₂ : Accepts reg a₂ v₁ k₂ v₂) :
    Dialogue [a₀, a₁, a₂] [.i2cStart, .i2cWrite (addrW dev), .i2cWrite reg] ⟨.idle, d, v⟩
      [.s, .w (addrW dev) k₁, .w reg k₂] [none, none, none] ⟨.mt, some dev, v₂⟩ :=
  .cons (.start (p := .started) rfl h₀) (.cons (exchange_addrW h₁) (.single (exchange_data h₂)))

/-- REGWR up to its stop (R161). -/
theorem dialogue_regwr (h₀ : Grants a₀ v) (h₁ : Accepts (addrW dev) a₁ (v.map slaveStart) k₁ v₁)
    (h₂ : Accepts reg a₂ v₁ k₂ v₂) (h₃ : Accepts data a₃ v₂ k₃ v₃) :
    Dialogue [a₀, a₁, a₂, a₃] [.i2cStart, .i2cWrite (addrW dev), .i2cWrite reg, .i2cWrite data] ⟨.idle, d, v⟩
      [.s, .w (addrW dev) k₁, .w reg k₂, .w data k₃] [none, none, none, none] ⟨.mt, some dev, v₃⟩ :=
  (dialogue_writePhase h₀ h₁ h₂).append (.single (exchange_data h₃))

/-- The opening of a read: the write phase, a repeated start and the read address of the same device (R162). -/
theorem dialogue_openRead (h₀ : Grants a₀ v) (h₁ : Accepts (addrW dev) a₁ (v.map slaveStart) k₁ v₁)
    (h₂ : Accepts reg a₂ v₁ k₂ v₂) (h₃ : Grants a₃ v₂) (h₄ : Accepts (addrR dev) a₄ (v₂.map slaveStart) k₃ v₃) :
    Dialogue [a₀, a₁, a₂, a₃, a₄] (openRead dev reg) ⟨.idle, d, v⟩
      [.s, .w (addrW dev) k₁, .w reg k₂, .sr, .w (addrR dev) k₃] [none, none, none, none, none] ⟨.mr, some dev, v₃⟩ :=
  have hread := Dialogue.cons (.start (p := .repStarted) rfl h₃) (.single (exchange_addrR h₄))
  (dialogue_writePhase h₀ h₁ h₂).append hread

/-- The Bus supplies these bytes one after another, and its device is `v'` after them. -/
inductive SuppliesAll : List BusAnswer → Option RefSlave → List Byte → Option RefSlave → Prop where
  | nil (v : Option RefSlave) : SuppliesAll [] v [] v
  | cons {a : BusAnswer} {as : List BusAnswer} {v v' v'' : Option RefSlave} {x : Byte} {xs : List Byte}
      (h : Supplies a v x v') (hs : SuppliesAll as v' xs v'') : SuppliesAll (a :: as) v (x :: xs) v''

theorem SuppliesAll.length_eq (h : SuppliesAll as v acked v₁) : as.length = acked.length := by
  induction h with
  | nil => rfl
  | cons _ _ ih => exact congrArg (· + 1) ih

theorem SuppliesAll.concat (h : SuppliesAll as v acked v₁) (hlast : Supplies a v₁ last v₂) :
    SuppliesAll (as ++ [a]) v (acked ++ [last]) v₂ := by
  induction h with
  | nil => exact .cons hlast (.nil _)
  | cons hx _ ih => exact .cons hx (ih hlast)

/-- Acknowledged reads, one for each byte. -/
theorem SuppliesAll.dialogue (h : SuppliesAll as v acked v₁) :
    Dialogue as (List.replicate acked.length .i2cReadack) ⟨.mr, d, v⟩ (acked.map (.r · .ack)) (acked.map some)
      ⟨.mr, d, v₁⟩ := by
  induction h with
  | nil v => exact .nil _
  | cons hx _ ih => exact .cons (.readAck hx) ih

/-- Every byte acknowledged but the last (R163). -/
theorem SuppliesAll.dialogue_last (hacked : SuppliesAll as v acked v₁) (hlast : Supplies a v₁ last v₂) :
    Dialogue (as ++ [a]) (List.replicate acked.length .i2cReadack ++ [.i2cReadnack]) ⟨.mr, d, v⟩ (readPart acked last)
      (acked.map some ++ [some last]) ⟨.mrLast, d, v₂⟩ :=
  hacked.dialogue.append (.single (.readNack hlast))

/-- REGWR on the bus (R161): five operations in fourteen turns. -/
theorem run_regwr {s : State} {ws : List OpWord} {rest : List Turn} (hs : BusFree s) (hv : s.slave = v)
    (h₀ : Grants a₀ v)
    (h₁ : Accepts (addrW dev) a₁ (v.map slaveStart) k₁ v₁) (h₂ : Accepts reg a₂ v₁ k₂ v₂)
    (h₃ : Accepts data a₃ v₂ k₃ v₃) (hg : Grants a v₃) :
    ∃ t, Sys2Proof.core.run 14 { s with
        words := opWords (regwr dev reg data) ++ ws, turns := eagerTurns [a₀, a₁, a₂, a₃] a ++ rest } = .next t ∧
      BusFree t ∧ t.words = ws ∧ t.trace = s.trace ++ [.s, .w (addrW dev) k₁, .w reg k₂, .w data k₃, .p] ∧
      t.completions = s.completions ++ [none, none, none, none, none] ∧ t.slave = v₃.map slaveStop := by
  subst hv
  simpa [regwr] using (dialogue_regwr h₀ h₁ h₂ h₃).run_transaction hs (.inl rfl) hg

/-- BURSTRD on the bus (R163). -/
theorem run_burstrd {s : State} {ws : List OpWord} {rest : List Turn} (hs : BusFree s) (hv : s.slave = v)
    (h₀ : Grants a₀ v)
    (h₁ : Accepts (addrW dev) a₁ (v.map slaveStart) k₁ v₁) (h₂ : Accepts reg a₂ v₁ k₂ v₂) (h₃ : Grants a₃ v₂)
    (h₄ : Accepts (addrR dev) a₄ (v₂.map slaveStart) k₃ v₃) (hacked : SuppliesAll as v₃ acked v₄)
    (hlast : Supplies b v₄ last v₅) (hg : Grants a v₅) :
    ∃ t, Sys2Proof.core.run (3 * acked.length + 20) { s with
        words := opWords (burstrd dev reg (acked.length + 1)) ++ ws,
        turns := eagerTurns (a₀ :: a₁ :: a₂ :: a₃ :: a₄ :: (as ++ [b])) a ++ rest } = .next t ∧
      BusFree t ∧ t.words = ws ∧
      t.trace = s.trace ++ [.s, .w (addrW dev) k₁, .w reg k₂, .sr, .w (addrR dev) k₃] ++ readPart acked last ++ [.p] ∧
      t.completions = s.completions ++ [none, none, none, none, none] ++ acked.map some ++ [some last, none] ∧
      t.slave = v₅.map slaveStop := by
  subst hv
  have hread := (dialogue_openRead (d := s.i2c.dev) h₀ h₁ h₂ h₃ h₄).append (hacked.dialogue_last hlast)
  obtain ⟨t, hrun, hfree, hw, htr, hc, hv⟩ := hread.run_transaction (ws := ws) (rest := rest) hs (.inr rfl) hg
  refine ⟨t, ?_, hfree, hw, by simp [htr], by simp [hc], hv⟩
  rw [← hrun, burstrd]
  simp [hacked.length_eq, Nat.mul_add]

end

/-! ### The reference slave in a transaction (R65) -/

/-- The slave after its own address byte, with the read bit `r`. -/
def RefSlave.selected (v : RefSlave) (r : Bool) : RefSlave :=
  { v with sel := true, rw := r, first := true, awaitAddr := false }

/-- The slave after the register address of a write phase. -/
def RefSlave.pointing (v : RefSlave) (reg : Byte) : RefSlave :=
  { v with ptr := reg, sel := true, rw := false, first := false, awaitAddr := false }

/-- The slave after the address byte of another device. -/
def RefSlave.deselected (v : RefSlave) : RefSlave := { v with sel := false, awaitAddr := false }

section
variable {v : RefSlave} {dev : DevAddr} {b : Byte} (a : BusAnswer)

theorem accepts_own_address (h : deviceOf b = v.addr) :
    Accepts b a (some (slaveStart v)) .ack (some (v.selected (isRead b))) :=
  .slave a (slaveWrite_own_address rfl h)

theorem accepts_addrW (h : v.addr = dev) :
    Accepts (addrW dev) a (some (slaveStart v)) .ack (some (v.selected false)) := by
  simpa using accepts_own_address (b := addrW dev) a (by simp [h])

theorem accepts_addrR (h : v.addr = dev) :
    Accepts (addrR dev) a (some (slaveStart v)) .ack (some (v.selected true)) := by
  simpa using accepts_own_address (b := addrR dev) a (by simp [h])

theorem accepts_other_address (h : deviceOf b ≠ v.addr) : Accepts b a (some (slaveStart v)) .nack (some v.deselected) :=
  .slave a (slaveWrite_other_address rfl h)

theorem accepts_pointer (reg : Byte) : Accepts reg a (some (v.selected false)) .ack (some (v.pointing reg)) :=
  .slave a ((slaveWrite_of_data rfl).trans (slaveData_pointer ⟨rfl, rfl⟩ rfl))

theorem accepts_store (reg data : Byte) : Accepts data a (some (v.pointing reg)) .ack
    (some { v.pointing (reg + 1) with regs := v.regs.write reg.toNat data }) :=
  .slave a ((slaveWrite_of_data rfl).trans (slaveData_store ⟨rfl, rfl⟩ rfl))

theorem accepts_ignored (b : Byte) : Accepts b a (some v.deselected) .nack (some v.deselected) :=
  .slave a ((slaveWrite_of_data rfl).trans (slaveData_of_not_written nofun))

/-- A slave selected for reading supplies the register `n` past its pointer when it has moved on by `n`, modulo 256. -/
theorem supplies_register (hr : v.sel = true ∧ v.rw = true) (n : Nat) :
    Supplies a (some { v with ptr := v.ptr + BitVec.ofNat 8 n }) (v.regs.read ((v.ptr.toNat + n) % 256))
      (some { v with ptr := v.ptr + BitVec.ofNat 8 (n + 1) }) := by
  have hread := slaveRead_of_driving (v := { v with ptr := v.ptr + BitVec.ofNat 8 n }) hr
  exact .slave a (by simp [hread, BitVec.ofNat_add, BitVec.add_assoc])

/-- A read nobody drives gives 0xFF. -/
theorem supplies_blank : Supplies a (some v.deselected) 0xFF (some v.deselected) :=
  .slave a (slaveRead_of_not_driving nofun)

end

/-- The registers from the pointer on, by induction from the last byte: the pointer has moved on by the bytes before it. -/
theorem suppliesAll_registers {v : RefSlave} (hr : v.sel = true ∧ v.rw = true) (as : List BusAnswer) :
    SuppliesAll as (some v) ((List.range as.length).map fun i => v.regs.read ((v.ptr.toNat + i) % 256))
      (some { v with ptr := v.ptr + BitVec.ofNat 8 as.length }) := by
  induction as using List.reverseRecOn with
  | nil => simpa using SuppliesAll.nil (some v)
  | append_singleton as a ih =>
    rw [List.length_append, List.length_singleton, List.range_succ, List.map_append]
    exact ih.concat (supplies_register a hr as.length)

theorem suppliesAll_blank (v : RefSlave) (as : List BusAnswer) :
    SuppliesAll as (some v.deselected) (List.replicate as.length 0xFF) (some v.deselected) := by
  induction as with
  | nil => exact .nil _
  | cons a as ih => exact .cons (supplies_blank a) ih

theorem suppliesAll_free (xs : List Byte) : SuppliesAll (xs.map (.answer .ack ·)) none xs none := by
  induction xs with
  | nil => exact .nil _
  | cons x xs ih => exact .cons (.free .ack x) ih

/-- Settles O34: the three Buses differ only in how they accept the three bytes. -/
theorem registerWriteTransaction : Obligations.RegisterWriteTransaction := by
  intro s dev reg data ws rest hs
  refine ⟨fun a₁ a₂ a₃ k₀ k₁ d₀ d₁ d₂ d₃ d₄ hv => ?free, fun v as a hv hlen => ?slave⟩
  case free =>
    obtain ⟨t, hrun, hfree, hw, htr, hc, -⟩ := run_regwr (ws := ws) (rest := rest) hs hv (grants_free k₀ d₀ _)
      (.free (b := addrW dev) a₁ d₁) (.free (b := reg) a₂ d₂) (.free (b := data) a₃ d₃) (grants_free k₁ d₄ _)
    exact ⟨t, hrun, htr, hc, hfree, hw⟩
  case slave =>
    obtain ⟨b₀, b₁, b₂, b₃, rfl⟩ := List.length_eq_four.mp hlen
    by_cases hdev : v.addr = dev
    · obtain ⟨t, hrun, hfree, hw, htr, hc, hu⟩ := run_regwr (ws := ws) (rest := rest) hs hv (grants_slave b₀ v)
        (accepts_addrW b₁ hdev) (accepts_pointer b₂ reg) (accepts_store b₃ reg data) (grants_slave a _)
      exact ⟨t, hrun, hc, hfree, hw, fun _ => ⟨htr, _, hu, hdev, rfl, rfl⟩, fun h => absurd hdev h⟩
    · obtain ⟨t, hrun, hfree, hw, htr, hc, hu⟩ := run_regwr (ws := ws) (rest := rest) hs hv (grants_slave b₀ v)
        (accepts_other_address b₁ fun h => hdev (h.symm.trans (deviceOf_addrW dev))) (accepts_ignored b₂ reg)
        (accepts_ignored b₃ data) (grants_slave a _)
      exact ⟨t, hrun, hc, hfree, hw, fun h => absurd h hdev, fun _ => ⟨htr, _, hu, rfl, rfl, rfl⟩⟩

/-- The answers of a burst read of `n + 1` bytes: five for its opening, one for each byte acknowledged, one for the last. -/
theorem exists_answers_of_length {α : Type} {n : Nat} {as : List α} (h : as.length = n + 6) :
    ∃ a₀ a₁ a₂ a₃ a₄ bs b, bs.length = n ∧ as = a₀ :: a₁ :: a₂ :: a₃ :: a₄ :: (bs ++ [b]) := by
  match as, h with
  | a₀ :: a₁ :: a₂ :: a₃ :: a₄ :: bs, h =>
    obtain rfl | ⟨bs, b, rfl⟩ := bs.eq_nil_or_concat
    · simp at h
    · exact ⟨a₀, a₁, a₂, a₃, a₄, bs, b, by simpa using h, by simp⟩

/-- Settles O35: the three Buses differ in how they accept the three bytes and in the bytes they supply. -/
theorem burstReadTransaction : Obligations.BurstReadTransaction := by
  intro s dev reg ws rest hs
  refine ⟨by simp [regrd, burstrd], fun acked last a₁ a₂ a₃ hv => ?free, fun v n as a hv hlen => ?slave⟩
  case free =>
    obtain ⟨t, hrun, hfree, hw, htr, hc, -⟩ := run_burstrd (ws := ws) (rest := rest) hs hv (grants_free .ack 0 _)
      (.free (b := addrW dev) a₁ 0) (.free (b := reg) a₂ 0) (grants_free .ack 0 _) (.free (b := addrR dev) a₃ 0)
      (suppliesAll_free acked) (.free .ack last) (grants_free .ack 0 _)
    exact ⟨t, hrun, htr, hc, hfree, hw⟩
  case slave =>
    obtain ⟨a₀, a₁, a₂, a₃, a₄, bs, b, rfl, rfl⟩ := exists_answers_of_length hlen
    by_cases hdev : v.addr = dev
    · obtain ⟨t, hrun, hfree, hw, htr, hc, hu⟩ := run_burstrd (ws := ws) (rest := rest) hs hv (grants_slave a₀ v)
        (accepts_addrW a₁ hdev) (accepts_pointer a₂ reg) (grants_slave a₃ _) (accepts_addrR a₄ hdev)
        (suppliesAll_registers ⟨rfl, rfl⟩ bs) (supplies_register b ⟨rfl, rfl⟩ bs.length) (grants_slave a _)
      refine ⟨t, by simpa using hrun, hfree, hw, fun _ => ⟨htr, ?_, _, hu, hdev, rfl, rfl⟩, fun h => absurd hdev h⟩
      simpa [List.range_succ, Function.comp_def, RefSlave.selected, RefSlave.pointing] using hc
    · obtain ⟨t, hrun, hfree, hw, htr, hc, hu⟩ := run_burstrd (ws := ws) (rest := rest) hs hv (grants_slave a₀ v)
        (accepts_other_address a₁ fun h => hdev (h.symm.trans (deviceOf_addrW dev))) (accepts_ignored a₂ reg)
        (grants_slave a₃ _) (accepts_other_address a₄ fun h => hdev (h.symm.trans (deviceOf_addrR dev)))
        (suppliesAll_blank _ bs) (supplies_blank b) (grants_slave a _)
      refine ⟨t, by simpa using hrun, hfree, hw, fun h => absurd h hdev, fun _ => ⟨htr, ?_, _, hu, rfl, rfl, rfl⟩⟩
      simpa [List.replicate_succ'] using hc

end Sys2Proof.Machine
end

section
/-! PROOFS. The periodic tick source (43_tick.md): its five operations, the compare event and the Handler, the order R189 asks
for, and what many events in a row do to the count and the flag, with interrupts enabled (R190, R193) and masked (R191). -/

namespace Sys2Proof.Machine

/-! ### The operations of the main loop (R181 to R185) -/

/-- Settles O41: the first call starts the timer, every later one is refused. -/
theorem tickInitResult : Obligations.TickInitResult :=
  ⟨by decide, fun _ =>
    ⟨fun hr => execTickInit_eq_next.mpr ⟨hr, rfl⟩, fun hr => execTickInit_eq_refused.mpr ⟨hr, rfl⟩⟩⟩

/-- Settles O42: none of the three looks at anything but the flag. -/
theorem tickFlagOperations : Obligations.TickFlagOperations :=
  ⟨by decide, by decide, by decide, fun _ =>
    ⟨execTickRdflag_eq_next.mpr rfl, execTickClrflag_eq_next.mpr rfl, execTickTake_eq_next.mpr rfl⟩⟩

/-- Settles O43: the bound is item 3 of the numbered invariants. -/
theorem tickRdcntResult : Obligations.TickRdcntResult := by
  refine ⟨by decide, fun s => ⟨execTickRdcnt_eq_next.mpr rfl, fun h => ?below⟩⟩
  case below =>
    obtain ⟨-, -, hcount, -⟩ := numberedInvariants s h
    omega

/-! ### One event and one Handler run (R187, R188) -/

theorem handlerDue_of_pending {s : State} (hp : s.tick.pend = true) (hg : s.gie = true) : handlerDue s = true := by
  simp [handlerDue, hp, hg]

theorem handlerDue_of_masked {s : State} (hg : s.gie = false) : handlerDue s = false :=
  handlerDue_eq_false_iff.mpr (.inr hg)

theorem agentStep_tickTimer_of_running {s : State} (hr : s.tick.run = true) (hd : handlerDue s = false) :
    agentStep .tickTimer s = .next (s.setTick { s.tick with pend := true }) :=
  congrArg Host.Outcome.next (if_pos (by simp [hr, hd]))

theorem agentStep_handler_of_due {s : State} (hd : handlerDue s = true) :
    agentStep .handler s = .next (s.setTick (handlerTick s.tick)) :=
  congrArg Host.Outcome.next (if_pos hd)

theorem agentStep_handler_of_not_due {s : State} (hd : handlerDue s = false) : agentStep .handler s = .next s :=
  congrArg Host.Outcome.next (takeInterrupt_of_not_due hd)

theorem handlerTick_at_hundredth {t : Tick} (h : t.count.toNat + 1 = 100) :
    handlerTick t = { t with pend := false, flag := true, count := 0 } := by
  rcases handlerTick_cases t with ⟨-, he⟩ | ⟨hne, -⟩
  · exact he
  · exact absurd (by bv_omega) hne

theorem handlerTick_below_hundredth {t : Tick} (h : t.count.toNat < 99) :
    handlerTick t = { t with pend := false, count := t.count + 1 } := by
  rcases handlerTick_cases t with ⟨heq, -⟩ | ⟨-, he⟩
  · bv_omega
  · exact he

theorem agentStep_handler_below_hundredth {s : State} (hp : s.tick.pend = true) (hg : s.gie = true)
    (hc : s.tick.count.toNat < 99) :
    agentStep .handler s = .next (s.setTick { s.tick with pend := false, count := s.tick.count + 1 }) := by
  rw [agentStep_handler_of_due (handlerDue_of_pending hp hg), handlerTick_below_hundredth hc]

/-- Settles O45: an event needs a running timer and no interrupt due. -/
theorem tickTimerEvent : Obligations.TickTimerEvent := fun _ =>
  ⟨agentStep_tickTimer_of_running, fun hr => congrArg Host.Outcome.next (tickTimerStep_held (.inl hr))⟩

/-- Settles O46: a count up to 99 is either one short of the hundredth tick or below it. -/
theorem handlerRun : Obligations.HandlerRun := by
  refine fun s => ⟨fun hp hg hc => ?fires, fun hp hg hle hne => ?counts, fun h => ?held⟩
  case fires =>
    rw [agentStep_handler_of_due (handlerDue_of_pending hp hg), handlerTick_at_hundredth hc]
    rfl
  case counts =>
    have hcount : BitVec.ofNat 8 (s.tick.count.toNat + 1) = s.tick.count + 1 := by bv_omega
    rw [agentStep_handler_below_hundredth hp hg (by omega), hcount]
    rfl
  case held => exact agentStep_handler_of_not_due (handlerDue_eq_false_iff.mpr h)

/-! ### The Handler goes first (R189) -/

/-- Settles O47: the three constrained agents are held by the due interrupt; the clock and the stop do not look at it. -/
theorem handlerGoesFirst : Obligations.HandlerGoesFirst := by
  intro s hp hg
  have hdue := handlerDue_of_pending hp hg
  refine ⟨hostTurn_of_due hdue, dispatcherTurn_held (.inl hdue),
    congrArg Host.Outcome.next (tickTimerStep_held (.inr hdue)), (pwmTimerClock s).1, fun hs hv k d => ?stop⟩
  case stop =>
    have hgrant : busGrants s (.answer k d) = true := by simp [busGrants, hv]
    simpa [hv] using (engineStopStep s (.answer k d) hs).1 hgrant

/-! ### Events handled one by one (R190) -/

/-- A run whose script gives TickTimer and Handler the next `n` pairs of turns counts `n` ticks and does nothing else. -/
theorem run_handled_events (n : Nat) {s : State} (hg : s.gie = true) (hr : s.tick.run = true) (hp : s.tick.pend = false)
    (rest : List Turn) :
    Sys2Proof.core.run (2 * n) { s with turns := (List.replicate n [Turn.tickTimer, Turn.handler]).flatten ++ rest } =
      .next { s with turns := rest, tick := handlerTick^[n] s.tick } := by
  induction n generalizing s with
  | zero => rfl
  | succ n ih =>
    set ts := (List.replicate n [Turn.tickTimer, Turn.handler]).flatten ++ rest
    have hevent : step { s with turns := .tickTimer :: .handler :: ts } =
        .next { s with turns := .handler :: ts, tick := { s.tick with pend := true } } :=
      agentStep_tickTimer_of_running hr (by simp [handlerDue, hp])
    have hhandled : step { s with turns := .handler :: ts, tick := { s.tick with pend := true } } =
        .next { s with turns := ts, tick := handlerTick s.tick } :=
      agentStep_handler_of_due (handlerDue_of_pending rfl hg)
    exact (run_succ_of_step _ hevent).trans ((run_succ_of_step _ hhandled).trans
      (ih (s := s.setTick (handlerTick s.tick)) hg (by simp [handlerTick_run, hr]) (by simp [handlerTick_pend])))

/-- The count goes round modulo 100, and the flag is set as it passes 0. -/
theorem handlerTick_iterate (n : Nat) {t : Tick} (hp : t.pend = false) (hc : t.count.toNat ≤ 99) :
    handlerTick^[n] t = { t with
      count := BitVec.ofNat 8 ((t.count.toNat + n) % 100), flag := t.flag || decide (100 ≤ t.count.toNat + n) } := by
  induction n with
  | zero =>
    have hcount : BitVec.ofNat 8 (t.count.toNat % 100) = t.count := by bv_omega
    have hflag : ¬100 ≤ t.count.toNat := by omega
    simp [hcount, hflag]
  | succ n ih =>
    rw [Function.iterate_succ_apply', ih]
    by_cases hlast : (t.count.toNat + n) % 100 = 99
    · have hzero : (t.count.toNat + (n + 1)) % 100 = 0 := by omega
      have hpast : 100 ≤ t.count.toNat + (n + 1) := by omega
      rw [handlerTick_at_hundredth (by simp [hlast])]
      simp [hp, hzero, hpast]
    · have hnext : (t.count.toNat + (n + 1)) % 100 = (t.count.toNat + n) % 100 + 1 := by omega
      have hpast : 100 ≤ t.count.toNat + (n + 1) ↔ 100 ≤ t.count.toNat + n := by omega
      have hlt : (BitVec.ofNat 8 ((t.count.toNat + n) % 100)).toNat < 99 := by
        rw [BitVec.toNat_ofNat]
        omega
      rw [handlerTick_below_hundredth hlt]
      simp [hp, hnext, hpast, BitVec.ofNat_add]

/-- Settles O48: each pair of turns is one tick, and the ticks add up by `handlerTick_iterate`. -/
theorem hundredTickCycle : Obligations.HundredTickCycle := by
  intro n s rest hg hr hp hc
  rw [run_handled_events n hg hr hp, handlerTick_iterate n hp hc]

/-! ### Events while masked (R191) -/

/-- While the mask is closed an event becomes pending, if none is, and the Handler's turn is held. -/
theorem run_masked_events (ts : List Turn) {s : State} (hg : s.gie = false) (hr : s.tick.run = true)
    (hts : ∀ x ∈ ts, x = .tickTimer ∨ x = .handler) (rest : List Turn) :
    Sys2Proof.core.run ts.length { s with turns := ts ++ rest } =
      .next { s with turns := rest, tick := { s.tick with pend := s.tick.pend || decide (Turn.tickTimer ∈ ts) } } := by
  induction ts generalizing s with
  | nil => simp [Host.Core.run]
  | cons x ts ih =>
    obtain ⟨hx, htail⟩ := List.forall_mem_cons.mp hts
    rcases hx with rfl | rfl
    · have hevent : step { s with turns := .tickTimer :: (ts ++ rest) } =
          .next { s with turns := ts ++ rest, tick := { s.tick with pend := true } } :=
        agentStep_tickTimer_of_running hr (handlerDue_of_masked hg)
      have hrest := ih (s := s.setTick { s.tick with pend := true }) hg hr htail
      simpa [State.setTick] using (run_succ_of_step _ hevent).trans hrest
    · have hheld : step { s with turns := .handler :: (ts ++ rest) } = .next { s with turns := ts ++ rest } :=
        agentStep_handler_of_not_due (handlerDue_of_masked hg)
      simpa using (run_succ_of_step _ hheld).trans (ih hg hr htail)

/-- Settles O49: the events of the run merge into one, and the Handler run that takes it counts one tick. -/
theorem maskedTicksMerge : Obligations.MaskedTicksMerge := by
  intro ts s rest hg hr hts hmem hc
  refine ⟨?merged, ?counted⟩
  case merged => simpa [hmem] using run_masked_events ts hg hr hts rest
  case counted => exact agentStep_handler_below_hundredth rfl rfl hc

/-! ### The read-then-clear race (R193) -/

theorem run_add_of_run {m : Nat} (n : Nat) {s t : State} (h : Sys2Proof.core.run m s = .next t) :
    Sys2Proof.core.run (m + n) s = Sys2Proof.core.run n t := by
  induction m generalizing s with
  | zero =>
    obtain rfl : s = t := Host.Outcome.next.inj h
    rw [Nat.zero_add]
  | succ m ih =>
    rw [Nat.succ_add]
    cases hu : step s with
    | next u =>
      rw [run_succ_of_step _ hu] at h ⊢
      exact ih h
    | fault e => cases e
    | refused e => simp [Host.Core.run, show Sys2Proof.core.step s = .refused e from hu] at h

/-- The turns of a whole cycle: a hundred events, each handled before the next. -/
abbrev cycleTurns : List Turn := (List.replicate 100 [Turn.tickTimer, Turn.handler]).flatten

/-- `s` in the middle of a script that polls the flag: the words and the turns still to come, the tick source and the
completions so far. -/
def State.polling (s : State) (ws : List OpWord) (ts : List Turn) (k : Tick) (cs : List (Option Byte)) : State :=
  { s with words := ws, turns := ts, tick := k, completions := cs }

section
variable {s : State} (k : Tick) {n : Nat} {ws : List OpWord} {ts : List Turn} {cs : List (Option Byte)}

/-- A whole cycle leaves the count where it was and the flag set, whether it was set before or not. -/
theorem run_polling_cycle (hg : s.gie = true) (hr : k.run = true) (hp : k.pend = false) (hc : k.count.toNat ≤ 99) :
    Sys2Proof.core.run (200 + n) (s.polling ws (cycleTurns ++ ts) k cs) =
      Sys2Proof.core.run n (s.polling ws ts { k with flag := true } cs) := by
  have hcycle := hundredTickCycle 100 (s.polling ws ts k cs) ts hg hr hp hc
  have hcount : k.count.toNat % 100 = k.count.toNat := Nat.mod_eq_of_lt (by omega)
  refine (run_add_of_run n hcycle).trans ?_
  simp [State.polling, hcount]

variable (hp : k.pend = false) (hfree : s.busy = none) (hrun : s.halted = false)
include hp hfree hrun

/-- With no event pending and the port free, the Host's turn performs the first word and the run goes on. -/
theorem run_polling_word {t : State} {w : OpWord} {i : Instr} (hi : decodeOp16 w = .op i)
    (he : exec i (s.polling ws ts k cs) = .next t) :
    Sys2Proof.core.run (n + 1) (s.polling (w :: ws) (.host :: ts) k cs) = Sys2Proof.core.run n t := by
  have hdue : handlerDue (s.polling (w :: ws) (.host :: ts) k cs) = false := handlerDue_eq_false_iff.mpr (.inl hp)
  exact run_succ_of_step n ((step_of_word hdue hfree hrun rfl rfl hi).trans he)

theorem run_polling_tickRdflag (f : Bool) (hf : k.flag = f) :
    Sys2Proof.core.run (n + 1) (s.polling (0x3100 :: ws) (.host :: ts) k cs) =
      Sys2Proof.core.run n (s.polling ws ts k (cs ++ [some (zext8 f)])) :=
  run_polling_word k hp hfree hrun (i := .tickRdflag) (by decide) (hf ▸ execTickRdflag_eq_next.mpr rfl)

theorem run_polling_tickClrflag :
    Sys2Proof.core.run (n + 1) (s.polling (0x3200 :: ws) (.host :: ts) k cs) =
      Sys2Proof.core.run n (s.polling ws ts (clearFlag k) (cs ++ [none])) :=
  run_polling_word k hp hfree hrun (i := .tickClrflag) (by decide) (execTickClrflag_eq_next.mpr rfl)

theorem run_polling_tickTake (f : Bool) (hf : k.flag = f) :
    Sys2Proof.core.run (n + 1) (s.polling (0x3400 :: ws) (.host :: ts) k cs) =
      Sys2Proof.core.run n (s.polling ws ts (clearFlag k) (cs ++ [some (zext8 f)])) :=
  run_polling_word k hp hfree hrun (i := .tickTake) (by decide) (hf ▸ execTickTake_eq_next.mpr rfl)

end

/-- Settles O50: the cycle leaves the flag set in both runs; in the first it was set before, and the clear discards both
settings at once, in the second the first setting had been taken. -/
theorem readThenClearLosesACycle : Obligations.ReadThenClearLosesACycle := by
  intro s ws rest hg hr hp hf hc hfree hrun
  refine ⟨⟨s.polling ws rest (clearFlag s.tick) (s.completions ++ [some 0x01, none, some 0x00]), ?race, rfl, rfl⟩,
    ⟨s.polling ws rest (clearFlag s.tick) (s.completions ++ [some 0x01, some 0x01]), ?take, rfl, rfl⟩⟩
  case race =>
    calc Sys2Proof.core.run (202 + 1) (s.polling (0x3100 :: 0x3200 :: 0x3100 :: ws)
          (.host :: (cycleTurns ++ .host :: .host :: rest)) s.tick s.completions)
      _ = Sys2Proof.core.run (200 + 2) (s.polling (0x3200 :: 0x3100 :: ws) (cycleTurns ++ .host :: .host :: rest)
            s.tick (s.completions ++ [some 0x01])) :=
          run_polling_tickRdflag s.tick hp hfree hrun true hf
      _ = Sys2Proof.core.run 2 (s.polling (0x3200 :: 0x3100 :: ws) (.host :: .host :: rest)
            { s.tick with flag := true } (s.completions ++ [some 0x01])) :=
          run_polling_cycle s.tick hg hr hp hc
      _ = Sys2Proof.core.run 1 (s.polling (0x3100 :: ws) (.host :: rest)
            (clearFlag s.tick) (s.completions ++ [some 0x01] ++ [none])) :=
          run_polling_tickClrflag { s.tick with flag := true } hp hfree hrun
      _ = Sys2Proof.core.run 0 (s.polling ws rest
            (clearFlag s.tick) (s.completions ++ [some 0x01] ++ [none] ++ [some 0x00])) :=
          run_polling_tickRdflag (clearFlag s.tick) hp hfree hrun false rfl
      _ = _ := by simp [Host.Core.run]
  case take =>
    calc Sys2Proof.core.run (201 + 1) (s.polling (0x3400 :: 0x3400 :: ws)
          (.host :: (cycleTurns ++ .host :: rest)) s.tick s.completions)
      _ = Sys2Proof.core.run (200 + 1) (s.polling (0x3400 :: ws) (cycleTurns ++ .host :: rest)
            (clearFlag s.tick) (s.completions ++ [some 0x01])) :=
          run_polling_tickTake s.tick hp hfree hrun true hf
      _ = Sys2Proof.core.run 1 (s.polling (0x3400 :: ws) (.host :: rest)
            { s.tick with flag := true } (s.completions ++ [some 0x01])) :=
          run_polling_cycle (clearFlag s.tick) hg hr hp hc
      _ = Sys2Proof.core.run 0 (s.polling ws rest
            (clearFlag s.tick) (s.completions ++ [some 0x01] ++ [some 0x01])) :=
          run_polling_tickTake { s.tick with flag := true } hp hfree hrun true rfl
      _ = _ := by simp [Host.Core.run]

end Sys2Proof.Machine
end

section
/-! PROOFS. The command dispatcher (44_cmd.md): what the Dispatcher's turn makes of the first received byte (R200, R205), the
four commands (R201 to R204), and the document's sequence of five bytes (R208). -/

namespace Sys2Proof.Machine

/-! ### Taking a byte (R200, R205) -/

/-- The Dispatcher's turn hands the first byte to `dispatchByte`, whatever the byte is. -/
theorem step_eq_dispatchByte {s : State} {b : Byte} {bs : List Byte} (hdue : handlerDue s = false) (hfree : s.busy = none)
    (hrun : s.halted = false) (ht : s.turn = .dispatcher) (hb : s.bytes = b :: bs) :
    step s = dispatchByte b (s.turnTaken.setBytes bs) := by
  rw [step, ht]
  simp [agentStep, dispatcherTurn, hdue, hfree, hrun, hb]

/-- Settles O7: a command byte is performed by `step_of_byte`, any other is echoed; taking the turn writes the script alone. -/
theorem dispatcherTurnRunsReceivedByte : Obligations.DispatcherTurnRunsReceivedByte := by
  refine fun s b bs ht hdue hfree hrun hb => ⟨fun i hi => ⟨wellFormed_eq_true i, ?command⟩, fun hu => ?echo⟩
  case command =>
    rw [step_of_byte hdue hfree hrun ht hb hi, turnTaken_eq]
    rfl
  case echo =>
    rw [step_eq_dispatchByte hdue hfree hrun ht hb, dispatchByte_of_unrecognised hu, turnTaken_eq]
    rfl

/-! ### The four commands (R201 to R206) -/

/-- No duty is the compare value 0, whatever the top (R105). -/
theorem compareValue_off (top : Byte) : compareValue top .off = 0 := by
  simp [compareValue, compareNat, pct]

theorem command_of_configured {s : State} (l : DutyLevel) (hc : s.pwm.cfg = true) :
    command l s =
      .next ((s.setPwm { s.pwm with cmpBuf := compareValue s.pwm.top l, level := l }).notify (.ack l)) :=
  command_eq_next.mpr ⟨hc, rfl⟩

theorem command_of_not_configured {s : State} (l : DutyLevel) (hc : s.pwm.cfg = false) :
    command l s = .refused .pwmNotConfigured :=
  command_eq_refused.mpr ⟨hc, rfl⟩

/-- Settles O51: each operation is `command` at its level; for Off the compare value is `compareValue_off`. -/
theorem commandResults : Obligations.CommandResults := by
  refine ⟨rfl, rfl, rfl, rfl, rfl, rfl, fun s => ⟨fun hc => ?configured, fun hc => ?notConfigured⟩⟩
  case configured =>
    have hoff := command_of_configured .off hc
    rw [compareValue_off] at hoff
    exact ⟨command_of_configured .low hc, command_of_configured .medium hc, command_of_configured .high hc, hoff⟩
  case notConfigured =>
    exact ⟨command_of_not_configured .low hc, command_of_not_configured .medium hc, command_of_not_configured .high hc,
      command_of_not_configured .off hc⟩

/-! ### Commands one after another (R208) -/

/-- A command byte, taken by a configured unit, sets its level, acknowledges it, and leaves the unit ready for the next. -/
theorem dispatchByte_of_command {b : Byte} {i : Instr} {s : State} (l : DutyLevel) (hb : decodeC8 b = .command i)
    (hi : exec i = command l) (hc : s.pwm.cfg = true) :
    ∃ t, dispatchByte b s = .next t ∧ t.pwm.cfg = true ∧ t.pwm.level = l ∧ t.cmdOut = s.cmdOut ++ [.ack l] := by
  have hnext : dispatchByte b s = command l s := by rw [dispatchByte, hb, ← hi]
  exact ⟨_, hnext.trans (command_of_configured l hc), hc, rfl, rfl⟩

/-- Settles O52: four commands in a row, each leaving the unit configured for the next, then the echo of `q`. -/
theorem dispatcherSequence : Obligations.DispatcherSequence := by
  intro s hc
  obtain ⟨s1, h1, hc1, hl1, ho1⟩ := dispatchByte_of_command (b := 0x77) .low rfl rfl hc
  obtain ⟨s2, h2, hc2, hl2, ho2⟩ := dispatchByte_of_command (b := 0x73) .medium rfl rfl hc1
  obtain ⟨s3, h3, hc3, hl3, ho3⟩ := dispatchByte_of_command (b := 0x57) .high rfl rfl hc2
  obtain ⟨s4, h4, -, hl4, ho4⟩ := dispatchByte_of_command (b := 0x78) .off rfl rfl hc3
  have hecho : dispatchByte 0x71 s4 = .next (s4.notify (.unrec 0x71)) := dispatchByte_of_unrecognised rfl s4
  refine ⟨s1, s2, s3, s4, _, h1, hl1, h2, hl2, h3, hl3, h4, hl4, hecho, rfl, ?log⟩
  simp [ho4, ho3, ho2, ho1]

end Sys2Proof.Machine
end

section
/-! PROOFS. The global interrupt mask (45_irq.md): its two operations, and what each makes of a pending event. -/

namespace Sys2Proof.Machine

/-- Settles O44: each operation writes `sys.gie` alone, and with it open an event that was pending is due at once (R189). -/
theorem irqMaskOperations : Obligations.IrqMaskOperations := by
  refine ⟨by decide, by decide, fun s => ⟨?enable, ?disable, fun hp => ?due, ?notDue⟩⟩
  case enable => exact execIrqEnable_eq_next.mpr rfl
  case disable => exact execIrqDisable_eq_next.mpr rfl
  case due => exact handlerDue_of_pending hp rfl
  case notDue => exact handlerDue_of_masked rfl

end Sys2Proof.Machine
end

section
/-! PROOFS. The refusals (60_exceptions.md R231, R232): what each operation refuses, gathered into the closed list. -/

namespace Sys2Proof.Machine

/-- A presented word is refused as no row selects it (R87), or as the operation it decodes to refuses. -/
theorem presentWord_eq_refused {w : OpWord} {s : State} {r : Refusal} :
    presentWord w s = .refused r ↔
      (decodeOp16 w = .reserved ∧ r = .reservedOp) ∨ ∃ i, decodeOp16 w = .op i ∧ exec i s = .refused r := by
  unfold presentWord
  cases decodeOp16 w <;> simp [eq_comm]

/-- The refusals of a write, one row of R231 each: the enable is checked first, then the phase, then the repeated start's
target (R232). -/
theorem execI2cWrite_refusal_rows {b : Byte} {s : State} {r : Refusal} :
    execI2cWrite b s = .refused r ↔
      (r = .i2cNotEnabled ∧ s.i2c.en = false) ∨
      (r = .i2cProtocol ∧ s.i2c.en = true ∧ (s.i2c.phase = .idle ∨ s.i2c.phase = .mr ∨ s.i2c.phase = .mrLast)) ∨
      (r = .i2cRepStartTarget ∧ s.i2c.en = true ∧ s.i2c.phase = .repStarted ∧
        ¬(isRead b = true ∧ s.i2c.dev = some (deviceOf b))) := by
  rw [execI2cWrite_eq_refused, writeEffect_eq_error]
  tauto

/-- Settles O10, operation by operation: the refusals of each meaning are the rows of the list that name the operation, and
an operation that no row names answers a next state. -/
theorem refusalsAreTheClosedList : Obligations.RefusalsAreTheClosedList := by
  refine ⟨fun i s r => ?_, fun w s r => presentWord_eq_refused⟩
  cases i with
  | pwmConfigure => simp [exec, execPwmConfigure_eq_refused, and_comm]
  | pwmSetduty l => simp [exec, execPwmSetduty_eq_refused, and_comm]
  | cmdLow | cmdMed | cmdHigh | cmdOff =>
    simp [exec, execCmdLow, execCmdMed, execCmdHigh, execCmdOff, command_eq_refused, and_comm]
  | i2cInit => simp [exec, execI2cInit_eq_refused, and_comm]
  | i2cStart => simp [exec, execI2cStart_eq_refused, and_comm, and_left_comm]
  | i2cStop => simp [exec, execI2cStop_eq_refused, and_comm, and_left_comm]
  | i2cWrite b => simp [exec, execI2cWrite_refusal_rows, isRead, deviceOf]
  | i2cReadack => simp [exec, execI2cReadack_eq_refused, and_comm, and_left_comm]
  | i2cReadnack => simp [exec, execI2cReadnack_eq_refused, and_comm, and_left_comm]
  | tickInit => simp [exec, execTickInit_eq_refused, and_comm]
  | i2cGetstatus | tickRdflag | tickClrflag | tickRdcnt | tickTake | irqEnable | irqDisable =>
    exact iff_of_false nofun (by simp)

end Sys2Proof.Machine
end

section
/-! PROOFS. What the spec leaves unspecified (10_state.md R36, R37, R41; 70_reset_and_hazards.md R260): the relation
`SameSpecified` is kept by every update, every operation and every agent, so no rule reads such a field. -/

namespace Sys2Proof.Machine

/-- The data register is live while a byte is to be sent, or while a reading Host waits for a byte that has come (R36). -/
theorem drLive_iff {s : State} :
    drLive s = true ↔ s.i2c.cmd = .tx ∨
      ((s.busy = some .rxAck ∨ s.busy = some .rxNack) ∧ (s.i2c.done = true ∨ s.i2c.cmd ≠ .rx)) := by
  simp [drLive]

theorem SameSpecified.refl (s : State) : SameSpecified s s := by constructor <;> intros <;> rfl

section
variable {s t : State} (h : SameSpecified s t)
include h

/-! ### The updates of the state, one rule each -/

theorem SameSpecified.setGie (b : Bool) : SameSpecified (s.setGie b) (t.setGie b) := { h with gie := rfl }

theorem SameSpecified.setTick (k : Tick) : SameSpecified (s.setTick k) (t.setTick k) := { h with tick := rfl }

theorem SameSpecified.setSlave (v : Option RefSlave) : SameSpecified (s.setSlave v) (t.setSlave v) :=
  { h with slave := rfl }

theorem SameSpecified.setWords (ws : List OpWord) : SameSpecified (s.setWords ws) (t.setWords ws) :=
  { h with words := rfl }

theorem SameSpecified.setBytes (bs : List Byte) : SameSpecified (s.setBytes bs) (t.setBytes bs) :=
  { h with bytes := rfl }

theorem SameSpecified.setTurns (ts : List Turn) (n : Nat) : SameSpecified (s.setTurns ts n) (t.setTurns ts n) :=
  { h with turns := rfl, drawn := rfl }

theorem SameSpecified.emit (e : BusEvent) : SameSpecified (s.emit e) (t.emit e) :=
  { h with trace := congrArg (· ++ [e]) h.trace }

theorem SameSpecified.notify (n : Notice) : SameSpecified (s.notify n) (t.notify n) :=
  { h with cmdOut := congrArg (· ++ [n]) h.cmdOut }

theorem SameSpecified.answer (r : Option Byte) : SameSpecified (s.answer r) (t.answer r) :=
  { h with completions := congrArg (· ++ [r]) h.completions }

/-- A unit that is written whole is the same in both, whatever it was before. -/
theorem SameSpecified.setPwm (p : Pwm) : SameSpecified (s.setPwm p) (t.setPwm p) :=
  { h with cfg := rfl, mode := rfl, oe := rfl, pwm := fun _ => rfl }

/-- A Host that stops waiting leaves the data register live only for a byte to be sent. -/
theorem SameSpecified.release : SameSpecified (s.setBusy none) (t.setBusy none) :=
  { h with
    busy := rfl
    dr := fun hl => h.dr (drLive_iff.mpr (.inl (by simpa [drLive_iff] using hl))) }

/-! ### What is read of a state is specified -/

theorem SameSpecified.handlerDue_eq : handlerDue s = handlerDue t := by
  rw [handlerDue, handlerDue, h.tick, h.gie]

theorem SameSpecified.turn_eq : s.turn = t.turn := by rw [State.turn, State.turn, h.turns, h.drawn]

theorem SameSpecified.busGrants_eq (a : BusAnswer) : busGrants s a = busGrants t a := by
  rw [busGrants, busGrants, h.slave]

/-- An attached slave is shown the data register, which is live while a byte is pending. -/
theorem SameSpecified.busAck_eq (hc : s.i2c.cmd = .tx) (a : BusAnswer) : busAck s a = busAck t a := by
  unfold busAck
  rw [h.slave, h.dr (drLive_iff.mpr (.inl hc))]

theorem SameSpecified.busData_eq (a : BusAnswer) : busData s a = busData t a := by
  unfold busData
  rw [h.slave]

/-- The low bits of the status register, which the two states may differ in, are masked away (R37, R137). -/
theorem SameSpecified.status_eq :
    statusRegister s.i2c &&& Config.statusMask = statusRegister t.i2c &&& Config.statusMask := by
  rw [statusRegister_and_mask, statusRegister_and_mask, h.srCode]

/-- A read completes with a byte that has come, and no other operation returns the data register (R36). -/
theorem SameSpecified.completionRet_eq {k : WaitKind} (hb : s.busy = some k) (hd : s.i2c.done = true) :
    completionRet s.i2c k = completionRet t.i2c k := by
  cases k with
  | start | tx => rfl
  | rxAck => exact congrArg some (h.dr (drLive_iff.mpr (.inr ⟨.inl hb, .inl hd⟩)))
  | rxNack => exact congrArg some (h.dr (drLive_iff.mpr (.inr ⟨.inr hb, .inl hd⟩)))

/-- The pin compares two registers only when it is driven, and then they are specified (R33). -/
theorem SameSpecified.pwmOut_eq : s.pwmOut = t.pwmOut := by
  cases ho : s.pwm.oe with
  | false => rw [pwmOut_of_not_driven ho, pwmOut_of_not_driven (h.oe ▸ ho)]
  | true => rw [State.pwmOut, State.pwmOut, h.pwm (.inr ho)]

/-! ### The operations -/

/-- A blocking operation but the write, as issued: the data register is not live until the engine has performed it. -/
theorem SameSpecified.issue_of_not_tx {c : EngineCmd} {k : WaitKind} (p : Phase) {x y : Bool} (hxy : x = y)
    (hc : c ≠ .tx) (hk : k = .start ∨ c = .rx) :
    SameSpecified ((s.setI2c (trigger { s.i2c with ackEn := x, phase := p } c)).setBusy (some k))
      ((t.setI2c (trigger { t.i2c with ackEn := y, phase := p } c)).setBusy (some k)) :=
  { h with
    busy := rfl, done := rfl, ackEn := hxy, cmd := rfl, phase := rfl
    dr := fun hl => by rcases hk with rfl | rfl <;> simp [drLive_iff, trigger, hc] at hl
    txkind := fun hc' => absurd hc' hc }

/-- A write sets the data register and the kind of its byte before the engine reads them (R130). -/
theorem SameSpecified.issue_write (b : Byte) (e : WriteEffect) :
    SameSpecified
      ((s.setI2c (trigger { s.i2c with dr := b, txkind := e.kind, phase := e.phase, dev := e.dev } .tx)).setBusy (some .tx))
      ((t.setI2c (trigger { t.i2c with dr := b, txkind := e.kind, phase := e.phase, dev := e.dev } .tx)).setBusy
        (some .tx)) :=
  { h with
    busy := rfl, done := rfl, cmd := rfl, phase := rfl, dev := rfl
    dr := fun _ => rfl
    txkind := fun _ => rfl }

theorem SameSpecified.stopIssued (p : Phase) :
    SameSpecified (s.setI2c { s.i2c with done := false, stopPend := true, phase := p, dev := none })
      (t.setI2c { t.i2c with done := false, stopPend := true, phase := p, dev := none }) :=
  { h with
    done := rfl, stopPend := rfl, phase := rfl, dev := rfl
    dr := fun hl => h.dr (drLive_iff.mpr ((drLive_iff.mp hl).imp_right fun ⟨hb, hd⟩ => ⟨hb, .inr (by simpa using hd)⟩)) }

theorem SameSpecified.enable (d : Byte) :
    SameSpecified (s.setI2c { s.i2c with div := d, en := true }) (t.setI2c { t.i2c with div := d, en := true }) :=
  { h with en := rfl }

/-- The effect of PWM.SETDUTY on a configured unit, whose registers are specified (R104). -/
theorem SameSpecified.setDuty (l : DutyLevel) (hc : s.pwm.cfg = true) :
    SameSpecified (s.setPwm { s.pwm with cmpBuf := compareValue s.pwm.top l, level := l })
      (t.setPwm { t.pwm with cmpBuf := compareValue t.pwm.top l, level := l }) := by
  rw [← h.pwm (.inl hc)]
  exact h.setPwm _

theorem SameSpecified.exec_next {i : Instr} {s' : State} (he : exec i s = .next s') :
    ∃ t', exec i t = .next t' ∧ SameSpecified s' t' := by
  cases i with
  | pwmConfigure =>
    obtain ⟨hc, rfl⟩ := execPwmConfigure_eq_next.mp he
    exact ⟨_, execPwmConfigure_eq_next.mpr ⟨h.cfg ▸ hc, by rw [← h.params]⟩, (h.setPwm _).answer _⟩
  | pwmSetduty l =>
    obtain ⟨hc, rfl⟩ := execPwmSetduty_eq_next.mp he
    exact ⟨_, execPwmSetduty_eq_next.mpr ⟨h.cfg ▸ hc, rfl⟩, (h.setDuty l hc).answer _⟩
  | cmdLow | cmdMed | cmdHigh | cmdOff =>
    obtain ⟨hc, rfl⟩ := command_eq_next.mp he
    exact ⟨_, command_eq_next.mpr ⟨h.cfg ▸ hc, rfl⟩, (h.setDuty _ hc).notify _⟩
  | i2cInit =>
    obtain ⟨hen, rfl⟩ := execI2cInit_eq_next.mp he
    exact ⟨_, execI2cInit_eq_next.mpr ⟨h.en ▸ hen, rfl⟩, (h.enable _).answer _⟩
  | i2cStart =>
    obtain ⟨hen, p, hp, rfl⟩ := execI2cStart_eq_next.mp he
    exact ⟨_, execI2cStart_eq_next.mpr ⟨h.en ▸ hen, p, h.phase ▸ hp, rfl⟩, h.issue_of_not_tx p h.ackEn nofun (.inl rfl)⟩
  | i2cStop =>
    obtain ⟨hen, p, hp, rfl⟩ := execI2cStop_eq_next.mp he
    exact ⟨_, execI2cStop_eq_next.mpr ⟨h.en ▸ hen, p, h.phase ▸ hp, rfl⟩, (h.stopIssued p).answer _⟩
  | i2cWrite b =>
    obtain ⟨hen, e, hp, rfl⟩ := execI2cWrite_eq_next.mp he
    exact ⟨_, execI2cWrite_eq_next.mpr ⟨h.en ▸ hen, e, h.dev ▸ h.phase ▸ hp, rfl⟩, h.issue_write b e⟩
  | i2cReadack =>
    obtain ⟨hen, p, hp, rfl⟩ := execI2cReadack_eq_next.mp he
    exact ⟨_, execI2cReadack_eq_next.mpr ⟨h.en ▸ hen, p, h.phase ▸ hp, rfl⟩, h.issue_of_not_tx p rfl nofun (.inr rfl)⟩
  | i2cReadnack =>
    obtain ⟨hen, p, hp, rfl⟩ := execI2cReadnack_eq_next.mp he
    exact ⟨_, execI2cReadnack_eq_next.mpr ⟨h.en ▸ hen, p, h.phase ▸ hp, rfl⟩, h.issue_of_not_tx p rfl nofun (.inr rfl)⟩
  | i2cGetstatus =>
    obtain rfl := execI2cGetstatus_eq_next.mp he
    exact ⟨_, execI2cGetstatus_eq_next.mpr (by rw [← h.status_eq]), h.answer _⟩
  | tickInit =>
    obtain ⟨hr, rfl⟩ := execTickInit_eq_next.mp he
    exact ⟨_, execTickInit_eq_next.mpr ⟨h.tick ▸ hr, by rw [← h.tick]⟩, (h.setTick _).answer _⟩
  | tickRdflag =>
    obtain rfl := execTickRdflag_eq_next.mp he
    exact ⟨_, execTickRdflag_eq_next.mpr (by rw [← h.tick]), h.answer _⟩
  | tickClrflag =>
    obtain rfl := execTickClrflag_eq_next.mp he
    exact ⟨_, execTickClrflag_eq_next.mpr (by rw [← h.tick]), (h.setTick _).answer _⟩
  | tickRdcnt =>
    obtain rfl := execTickRdcnt_eq_next.mp he
    exact ⟨_, execTickRdcnt_eq_next.mpr (by rw [← h.tick]), h.answer _⟩
  | tickTake =>
    obtain rfl := execTickTake_eq_next.mp he
    exact ⟨_, execTickTake_eq_next.mpr (by rw [← h.tick]), (h.setTick _).answer _⟩
  | irqEnable =>
    obtain rfl := execIrqEnable_eq_next.mp he
    exact ⟨_, execIrqEnable_eq_next.mpr rfl, (h.setGie _).answer _⟩
  | irqDisable =>
    obtain rfl := execIrqDisable_eq_next.mp he
    exact ⟨_, execIrqDisable_eq_next.mpr rfl, (h.setGie _).answer _⟩

/-- An operation refuses in both states or in neither, for the same reason, and its next states are again such a pair. -/
theorem SameSpecified.exec_same (i : Instr) : SameOutcome (exec i s) (exec i t) := by
  cases he : exec i s with
  | next s' =>
    obtain ⟨t', ht, h'⟩ := h.exec_next he
    rw [ht]
    exact h'
  | refused r =>
    rw [(exec_refused_congr h.cfg.symm (congrArg Tick.run h.tick).symm h.en.symm h.phase.symm h.dev.symm i r).mpr he]
    exact rfl
  | fault e => exact nomatch e

/-! ### The engine and the Bus (R140 to R143) -/

theorem SameSpecified.stopPerformed (c : StatusCode) :
    SameSpecified (s.setI2c { s.i2c with stopPend := false, srCode := c })
      (t.setI2c { t.i2c with stopPend := false, srCode := c }) :=
  { h with stopPend := rfl, srCode := rfl }

/-- After a start or a byte sent the data register is live only if it was so before. -/
theorem SameSpecified.performed (hc : s.i2c.cmd ≠ .rx) (st : Byte) :
    SameSpecified (s.setI2c (engineDone s.i2c st)) (t.setI2c (engineDone t.i2c st)) :=
  { h with
    srCode := rfl, done := rfl, cmd := rfl
    dr := fun hl => h.dr (drLive_iff.mpr ((drLive_iff.mp hl).imp nofun fun ⟨hb, _⟩ => ⟨hb, .inr hc⟩))
    txkind := nofun }

theorem SameSpecified.received (d st : Byte) :
    SameSpecified (s.setI2c (engineDone { s.i2c with dr := d } st)) (t.setI2c (engineDone { t.i2c with dr := d } st)) :=
  { h with
    srCode := rfl, done := rfl, cmd := rfl
    dr := fun _ => rfl
    txkind := nofun }

theorem SameSpecified.engStop_same : SameSpecified (engStop s) (engStop t) := by
  rw [engStop, engStop, ← h.params, ← h.slave]
  exact ((h.emit _).stopPerformed _).setSlave _

theorem SameSpecified.engStart_same (hc : s.i2c.cmd = .start) : SameSpecified (engStart s) (engStart t) := by
  have hrx : s.i2c.cmd ≠ .rx := by simp [hc]
  unfold engStart
  rw [← h.phase, ← h.params, ← h.slave]
  split <;> exact ((h.emit _).performed hrx _).setSlave _

/-- The one step that reads the data register and the kind of its byte, both written when the byte was issued (R142). -/
theorem SameSpecified.engTx_same (hc : s.i2c.cmd = .tx) (k : Ack) : SameSpecified (engTx k s) (engTx k t) := by
  have hrx : s.i2c.cmd ≠ .rx := by simp [hc]
  rw [engTx, engTx, ← h.dr (drLive_iff.mpr (.inl hc)), ← h.txkind hc, ← h.params, ← h.slave]
  exact ((h.emit _).performed hrx _).setSlave _

theorem SameSpecified.engRx_same (d : Byte) : SameSpecified (engRx d s) (engRx d t) := by
  have hbit : rxAckBit s.i2c = rxAckBit t.i2c := by rw [rxAckBit, rxAckBit, h.ackEn]
  have hstatus : rxStatus s.params.st s.i2c = rxStatus t.params.st t.i2c := by
    rw [rxStatus, rxStatus, h.ackEn, h.params]
  rw [engRx, engRx, ← hbit, ← hstatus, ← h.slave]
  exact ((h.emit _).received _ _).setSlave _

theorem SameSpecified.engineTurn_same (a : BusAnswer) : SameSpecified (engineTurn a s) (engineTurn a t) := by
  unfold engineTurn
  rw [← h.stopPend, ← h.cmd, ← h.busGrants_eq a, ← h.busData_eq a]
  cases s.i2c.stopPend with
  | true =>
    cases busGrants s a with
    | false => exact h
    | true => exact h.engStop_same
  | false =>
    cases hc : s.i2c.cmd with
    | none => exact h
    | start =>
      cases busGrants s a with
      | false => exact h
      | true => exact h.engStart_same hc
    | tx =>
      rw [← h.busAck_eq hc a]
      cases busAck s a with
      | none => exact h
      | some k => exact h.engTx_same hc k
    | rx =>
      cases busData s a with
      | none => exact h
      | some d => exact h.engRx_same d

/-! ### The other agents and the port -/

theorem SameSpecified.takeInterrupt_same : SameSpecified (takeInterrupt s) (takeInterrupt t) := by
  unfold takeInterrupt
  rw [← h.handlerDue_eq, ← h.tick]
  split
  · exact h.setTick _
  · exact h

theorem SameSpecified.tickTimerStep_same : SameSpecified (tickTimerStep s) (tickTimerStep t) := by
  unfold tickTimerStep
  rw [← h.handlerDue_eq, ← h.tick]
  split
  · exact h.setTick _
  · exact h

/-- The timer clocks a configured unit only, whose registers are specified (R108). -/
theorem SameSpecified.pwmTimerStep_same : SameSpecified (pwmTimerStep s) (pwmTimerStep t) := by
  unfold pwmTimerStep
  rw [← h.cfg]
  split
  · next hc =>
    rw [← h.pwm (.inl hc)]
    exact h.setPwm _
  · exact h

theorem SameSpecified.completeStep_same {k : WaitKind} (hb : s.busy = some k) :
    SameSpecified (completeStep k s) (completeStep k t) := by
  unfold completeStep
  rw [← h.done]
  split
  · next hd =>
    rw [← h.completionRet_eq hb hd]
    exact h.release.answer _
  · exact h

theorem SameSpecified.presentWord_same (w : OpWord) : SameOutcome (presentWord w s) (presentWord w t) := by
  unfold presentWord
  split
  · exact h.exec_same _
  · exact rfl

theorem SameSpecified.dispatchByte_same (b : Byte) : SameOutcome (dispatchByte b s) (dispatchByte b t) := by
  unfold dispatchByte
  split
  · exact h.exec_same _
  · exact h.notify _

theorem SameSpecified.hostTurn_same : SameOutcome (hostTurn s) (hostTurn t) := by
  unfold hostTurn
  rw [← h.handlerDue_eq, ← h.busy, ← h.halted, ← h.words]
  cases handlerDue s with
  | true => exact h
  | false =>
    cases hb : s.busy with
    | some k => exact h.completeStep_same hb
    | none =>
      cases s.halted with
      | true => exact h
      | false =>
        cases s.words with
        | nil => exact h
        | cons w ws => exact (h.setWords ws).presentWord_same w

theorem SameSpecified.dispatcherTurn_same : SameOutcome (dispatcherTurn s) (dispatcherTurn t) := by
  unfold dispatcherTurn
  rw [← h.handlerDue_eq, ← h.busy, ← h.halted, ← h.bytes]
  split
  · exact h
  · cases s.bytes with
    | nil => exact h
    | cons b bs => exact (h.setBytes bs).dispatchByte_same b

theorem SameSpecified.agentStep_same (x : Turn) : SameOutcome (agentStep x s) (agentStep x t) := by
  cases x with
  | host => exact h.hostTurn_same
  | dispatcher => exact h.dispatcherTurn_same
  | handler => exact h.takeInterrupt_same
  | tickTimer => exact h.tickTimerStep_same
  | pwmTimer => exact h.pwmTimerStep_same
  | engine a => exact h.engineTurn_same a

theorem SameSpecified.turnTaken_same : SameSpecified s.turnTaken t.turnTaken := by
  unfold State.turnTaken
  rw [← h.turns, ← h.drawn]
  split <;> exact h.setTurns _ _

theorem SameSpecified.step_same : SameOutcome (step s) (step t) := by
  rw [step, step, ← h.turn_eq]
  exact h.turnTaken_same.agentStep_same s.turn

end

/-- Settles O59: every agent's step keeps the relation, and reset is unconfigured, waits for nothing and has no byte pending,
so what its unspecified fields hold does not matter. -/
theorem unspecifiedFieldsAreNeverRead : Obligations.UnspecifiedFieldsAreNeverRead := by
  refine ⟨fun s t h => ⟨h.step_same, h.pwmOut_eq⟩, fun p top cmpBuf cmpAct cnt div dr level low kind => ?reset⟩
  case reset =>
    exact { SameSpecified.refl (State.resetWith p) with pwm := nofun, dr := nofun, txkind := nofun }

end Sys2Proof.Machine
end

section
/-! PROOFS. The state after reset (70_reset_and_hazards.md R260, R261): its values, and that nothing moves on its own. -/

namespace Sys2Proof.Machine

/-- Settles O57: the values stand in the definition of reset, and the pin is not driven while `pwm.oe` is 0 (R33). -/
theorem resetValues : Obligations.ResetValues := fun _ =>
  ⟨rfl, rfl, rfl, rfl, rfl, pwmOut_of_not_driven rfl, rfl, rfl, rfl, rfl, rfl, rfl, rfl, rfl, rfl, rfl, rfl, rfl⟩

/-- Settles O58, agent by agent: no tick is pending, neither timer is started and the engine owes the bus nothing. -/
theorem resetIsQuiescent : Obligations.ResetIsQuiescent := by
  refine fun p x hhost hdisp => ⟨?held, rfl⟩
  cases x with
  | host => exact absurd rfl hhost
  | dispatcher => exact absurd rfl hdisp
  | handler => exact congrArg Host.Outcome.next (takeInterrupt_of_not_due rfl)
  | tickTimer => exact congrArg Host.Outcome.next (tickTimerStep_held (.inl rfl))
  | pwmTimer => exact congrArg Host.Outcome.next (pwmTimerStep_of_not_configured rfl)
  | engine a => exact congrArg Host.Outcome.next (engineTurn_of_nothing_owed a rfl rfl)

end Sys2Proof.Machine
end
